-- ==== Sys2Proof/Word.lean ====
section
/-! DEFINITION. The word, byte and payload types (`20_memory.md` R102, R105: every access is 32 bits wide). -/

namespace Sys2Proof

/-- A 32-bit word: every register and message-RAM access has this width (R105). -/
abbrev Word := BitVec 32

/-- A byte of the message RAM. -/
abbrev Byte := BitVec 8

/-- The eight payload bytes `data[0]` to `data[7]` of a message (`10_state.md` R92, R93). -/
abbrev Payload := Vector Byte 8

end Sys2Proof
end

