-- ==== Sys2Proof/Records.lean ====
section
/-! DEFINITION. The records that cross the device port and the message RAM: the device registers (`10_state.md` R59 to R78)
and the message-RAM elements (`20_memory.md` R114 to R117). How a record is packed into a word is `cfg.PACK`'s business. -/

namespace Sys2Proof

/-- A set of the controller's interrupt conditions (`10_state.md` R75). The source names two. -/
structure IrqSet where
  rxNew  : Bool
  txDone : Bool
  deriving DecidableEq, Repr, Inhabited

/-! Device registers. -/

/-- `MODE` (R60). -/
structure ModeReg where
  init : Bool
  cce  : Bool
  fd   : Bool
  deriving DecidableEq, Repr, Inhabited

/-- `BTR` (R61): the record of the four bit-timing values. -/
structure BtrReg where
  presc : Word
  seg1  : Word
  seg2  : Word
  sjw   : Word
  deriving DecidableEq, Repr, Inhabited

/-- `GFC` (R62). -/
structure GfcReg where
  rejNomatch : Bool
  rejRemote  : Bool
  deriving DecidableEq, Repr, Inhabited

/-- A base and count register: `FLTC` (R63), `TXC` (R67), `TXEC` (R70). -/
structure ZoneReg where
  base  : BitVec 16
  count : Nat
  deriving DecidableEq, Repr, Inhabited

/-- `RXC` (R64). -/
structure RxcReg where
  base      : BitVec 16
  count     : Nat
  overwrite : Bool
  deriving DecidableEq, Repr, Inhabited

/-- `RXS` (R65) and `TXES` (R71) as read. -/
structure RxsView where
  fill : Nat
  get  : Nat
  deriving DecidableEq, Repr, Inhabited

/-- `TXS` as read (R68). -/
structure TxsView where
  put  : Nat
  full : Bool
  deriving DecidableEq, Repr, Inhabited

/-- `PSR` (R73). -/
structure PsrReg where
  lec     : BitVec 3
  warning : Bool
  busOff  : Bool
  deriving DecidableEq, Repr, Inhabited

/-- `ECR` (R74). -/
structure EcrReg where
  recv : BitVec 7
  tec  : BitVec 8
  cel  : BitVec 8
  deriving DecidableEq, Repr, Inhabited

/-- The device registers by name (R60 to R78). -/
inductive DevReg where
  | mode | btr | gfc | fltc | rxc | rxs | rxa | txc | txs | txrq | txec | txes | txea | psr | ecr | ie | ils | ir | tscnt
  deriving DecidableEq, Repr, Inhabited

/-- The record of a device register (R60 to R78). -/
inductive DevRec where
  | mode (r : ModeReg)
  | btr (r : BtrReg)
  | gfc (r : GfcReg)
  | fltc (r : ZoneReg)
  | rxc (r : RxcReg)
  | rxs (r : RxsView)
  | rxa (index : Nat)
  | txc (r : ZoneReg)
  | txs (r : TxsView)
  | txrq (bits : Word)
  | txec (r : ZoneReg)
  | txes (r : RxsView)
  | txea (index : Nat)
  | psr (r : PsrReg)
  | ecr (r : EcrReg)
  | ie (r : IrqSet)
  | ils (r : IrqSet)
  | ir (r : IrqSet)
  | tscnt (cnt : BitVec 16)
  deriving DecidableEq, Repr, Inhabited

/-- The register a record belongs to. -/
def DevRec.reg : DevRec → DevReg
  | .mode _ => .mode
  | .btr _ => .btr
  | .gfc _ => .gfc
  | .fltc _ => .fltc
  | .rxc _ => .rxc
  | .rxs _ => .rxs
  | .rxa _ => .rxa
  | .txc _ => .txc
  | .txs _ => .txs
  | .txrq _ => .txrq
  | .txec _ => .txec
  | .txes _ => .txes
  | .txea _ => .txea
  | .psr _ => .psr
  | .ecr _ => .ecr
  | .ie _ => .ie
  | .ils _ => .ils
  | .ir _ => .ir
  | .tscnt _ => .tscnt

/-! Message-RAM elements. -/

/-- The mode of a filter word (R114); `other` is a code that is not `MASK_ID`. -/
inductive FilterMode where
  | maskId
  | other (code : BitVec 2)
  deriving DecidableEq, Repr, Inhabited

/-- The action of a filter word (R114); `other` is a code that is neither. -/
inductive FilterAction where
  | disabled
  | toRx
  | other (code : BitVec 3)
  deriving DecidableEq, Repr, Inhabited

/-- A filter word's record (R114). -/
structure FilterRec where
  mode   : FilterMode
  action : FilterAction
  id     : BitVec 11
  mask   : BitVec 11
  deriving DecidableEq, Repr, Inhabited

/-- Word 0 of an RX slot (R115). -/
structure RxIdRec where
  id  : BitVec 11
  rtr : Bool
  xtd : Bool
  deriving DecidableEq, Repr, Inhabited

/-- Word 1 of an RX slot (R115). -/
structure RxCtlRec where
  dlc : BitVec 4
  ts  : BitVec 16
  deriving DecidableEq, Repr, Inhabited

/-- Word 0 of a TX slot (R116) and of a TX-event element (R117). -/
structure TxIdRec where
  id  : BitVec 11
  rtr : Bool
  deriving DecidableEq, Repr, Inhabited

/-- Word 1 of a TX slot (R116). -/
structure TxCtlRec where
  dlc : BitVec 4
  evt : Bool
  tag : BitVec 8
  deriving DecidableEq, Repr, Inhabited

/-- Word 1 of a TX-event element (R117). -/
structure TxeCtlRec where
  dlc : BitVec 4
  ts  : BitVec 16
  tag : BitVec 8
  deriving DecidableEq, Repr, Inhabited

end Sys2Proof
end

