-- ==== Sys2Proof/Config.lean ====
section
/-! DEFINITION. The configuration record `cfg` of `00_scope.md` R12, its reference values, and the free values
(behaviour the spec leaves unspecified after which the machine goes on). -/

namespace Sys2Proof

/-- The six error classes, in the order of `10_state.md` R50, R55. -/
inductive ErrClass where
  | stuff | form | ack | crc | bit0 | bit1
  deriving DecidableEq, Repr, Inhabited

/-- The byte offset of every device register (`20_memory.md` R113: "captured in `cfg`"). -/
structure DevOffsets where
  mode  : Nat
  btr   : Nat
  gfc   : Nat
  fltc  : Nat
  rxc   : Nat
  rxs   : Nat
  rxa   : Nat
  txc   : Nat
  txs   : Nat
  txrq  : Nat
  txec  : Nat
  txes  : Nat
  txea  : Nat
  psr   : Nat
  ecr   : Nat
  ie    : Nat
  ils   : Nat
  ir    : Nat
  tscnt : Nat
  deriving DecidableEq, Repr, Inhabited

/-- The reference offsets (`93_implementation_defined.md` U20). -/
def DevOffsets.reference : DevOffsets where
  mode := 0x018
  btr := 0x01C
  gfc := 0x080
  fltc := 0x084
  rxc := 0x0A0
  rxs := 0x0A4
  rxa := 0x0A8
  txc := 0x0C0
  txs := 0x0C4
  txrq := 0x0D0
  txec := 0x0F0
  txes := 0x0F4
  txea := 0x0F8
  psr := 0x044
  ecr := 0x040
  ie := 0x054
  ils := 0x058
  ir := 0x050
  tscnt := 0x024

/-- A packing in the manner of the reference one: the offsets of the device registers, whose bits are the reference's,
and for the message RAM the low bit of every field of the element formats of `20_memory.md` R114 to R117 and the two codes
of a filter word (assumption log 2). -/
structure BitLayout where
  offsets   : DevOffsets
  fltMode   : Nat
  fltAction : Nat
  fltId     : Nat
  fltMask   : Nat
  maskIdCode : BitVec 2
  toRxCode   : BitVec 3
  rxXtd : Nat
  rxRtr : Nat
  rxId  : Nat
  rxDlc : Nat
  rxTs  : Nat
  txRtr : Nat
  txId  : Nat
  txTag : Nat
  txEvt : Nat
  txDlc : Nat
  evRtr : Nat
  evId  : Nat
  evTag : Nat
  evDlc : Nat
  evTs  : Nat
  deriving DecidableEq, Repr, Inhabited

/-- The reference bit positions of R114 to R117 and U20. -/
def BitLayout.reference : BitLayout where
  offsets := DevOffsets.reference
  fltMode := 30
  fltAction := 27
  fltId := 16
  fltMask := 0
  maskIdCode := 2
  toRxCode := 1
  rxXtd := 30
  rxRtr := 29
  rxId := 18
  rxDlc := 16
  rxTs := 0
  txRtr := 29
  txId := 18
  txTag := 24
  txEvt := 23
  txDlc := 16
  evRtr := 29
  evId := 18
  evTag := 24
  evDlc := 16
  evTs := 0

/-- A packing as functions: every record to its word and back, and the offset of every device register (U20). The
controller's words take a further word, its choice of the bits that carry no field (R115, R117). -/
structure PackFns where
  encFlt   : FilterRec → Word
  decFlt   : Word → FilterRec
  encRx0   : RxIdRec → Word → Word
  decRx0   : Word → RxIdRec
  encRx1   : RxCtlRec → Word → Word
  decRx1   : Word → RxCtlRec
  encTxId  : TxIdRec → Word
  decTxId  : Word → TxIdRec
  encTxCtl : TxCtlRec → Word
  decTxCtl : Word → TxCtlRec
  encTxe0  : TxIdRec → Word → Word
  decTxe0  : Word → TxIdRec
  encTxe1  : TxeCtlRec → Word → Word
  decTxe1  : Word → TxeCtlRec
  encDev   : DevRec → Word
  decDev   : DevReg → Word → DevRec
  offset   : DevReg → Nat
  deriving Inhabited

/-- Any packing whatever, by number. No body: nothing is known of one but what a valid configuration asks (U20). -/
opaque Config.packFns : Nat → PackFns

/-- `cfg.PACK` (R12, U20): a bit layout in the manner of the reference, or any other packing. -/
inductive Pack where
  | layout (l : BitLayout)
  | other (n : Nat)
  deriving DecidableEq, Repr, Inhabited

/-- The reference `PACK` (U20). -/
def Pack.reference : Pack := .layout BitLayout.reference

/-- The configuration record (`00_scope.md` R12): every field of the table, constants of the machine. -/
structure Cfg where
  numDev       : Nat
  seg1Max      : Nat
  seg2Max      : Nat
  sjwMax       : Nat
  prescMax     : Nat
  fbThreshold  : Nat
  syncInSeg1   : Bool
  spDefault    : Nat
  rjDefault    : Nat
  rjMin        : Nat
  rjMax        : Nat
  rxd          : Nat
  txd          : Nat
  txed         : Nat
  maxf         : Nat
  poolOffset   : Nat
  poolSize     : Nat
  align        : Nat
  fltSz        : Nat
  rxSz         : Nat
  txSz         : Nat
  txeSz        : Nat
  rxOverwrite  : Bool
  rxOwnTx      : Bool
  rxIrqAck     : Bool
  ieInit       : IrqSet
  ilsInit      : IrqSet
  ecrClearOnRead : Bool
  hostclkHz    : Nat
  tsBracketMax : Nat
  /-- `LEC_MAP` on the codes 1 to 6, entry 0 for code 1 (`46_bus_health.md` R338). -/
  lecMap       : Vector ErrClass 6
  pack         : Pack
  deriving DecidableEq, Repr

/-- The reference values of R12. -/
def Cfg.reference : Cfg where
  numDev := 2
  seg1Max := 256
  seg2Max := 128
  sjwMax := 128
  prescMax := 512
  fbThreshold := 128
  syncInSeg1 := false
  spDefault := 875
  rjDefault := 125
  rjMin := 0
  rjMax := 1000
  rxd := 4
  txd := 2
  txed := 2
  maxf := 4
  poolOffset := 0
  poolSize := 256
  align := 4
  fltSz := 4
  rxSz := 16
  txSz := 16
  txeSz := 8
  rxOverwrite := false
  rxOwnTx := false
  rxIrqAck := true
  ieInit := { rxNew := true, txDone := false }
  ilsInit := { rxNew := false, txDone := false }
  ecrClearOnRead := true
  hostclkHz := 80000000
  tsBracketMax := 100
  lecMap := #v[.stuff, .form, .ack, .bit0, .bit1, .crc]
  pack := Pack.reference

/-- `TxMessage` as it crosses the collaborator port (`10_state.md` R93, R94): logical id, length, data. The source's
contract is `length ≤ 8` and `lid[15:12] = 0`; CANDRV is defined without either (`43_tx_engine.md` R276, R94). -/
structure TxMsg where
  lid    : BitVec 16
  length : Nat
  data   : Payload
  deriving DecidableEq, Repr, Inhabited

/-- `RxMessage` as it crosses the collaborator port (`10_state.md` R92, R94). -/
structure RxMsg where
  lid       : BitVec 16
  length    : Nat
  data      : Payload
  timestamp : Word
  deriving DecidableEq, Repr, Inhabited

/-- Free choice between two outcomes, drawn with `State.free` (U4; assumption log 9). No body: nothing is known of it. -/
opaque Config.freeBool : Nat → Bool

/-- Free number, drawn with `State.free` (ring cursors after U8, put index after U9; assumption log 9). -/
opaque Config.freeNat : Nat → Nat

/-- Free request set, in order, drawn with `State.free` (U9; assumption log 9). -/
opaque Config.freeRequests : Nat → List Nat

/-- Free message, drawn with `State.free` (`TakeOutgoing` on an empty source; assumption log 10). -/
opaque Config.freeMessage : Nat → TxMsg

end Sys2Proof
end

