-- ==== Sys2Proof/Syntax.lean ====
section
/-! DEFINITION. The fourteen instructions of `30_encoding.md` R152 with their operand fields (R151), and the assembler's
source commands with the pseudo-commands of R166. -/

namespace Sys2Proof

/-- One constructor per row of the opcode table (R152). The operands are the fields of R151 at their own widths. -/
inductive Instr where
  | nop
  | init (dev : BitVec 8)
  | disable
  | enable
  | solve
  | setspeed
  | aclr
  | aadd (id mask : BitVec 11)
  | htx
  | hrx
  | tsrec (ts : BitVec 16)
  | rpsr
  | upderr
  | htxe
  deriving DecidableEq, Repr, Inhabited

/-- A command as a programmer writes it (R165, R166): operands are plain numbers that may not fit their field. -/
inductive AsmCmd where
  | nop
  | init (dev : Nat)
  | disable
  | enable
  | solve
  | setspeed
  | aclr
  | aadd (id mask : Nat)
  | htx
  | hrx
  | tsrec (ts : Nat)
  | rpsr
  | upderr
  | htxe
  | accept (id : Nat)
  | acceptAll
  | poll
  deriving DecidableEq, Repr

end Sys2Proof
end

