-- ==== Sys2Proof/WellFormed.lean ====
section
/-! DEFINITION. Which source commands are well formed (`30_encoding.md` R165: an operand that does not fit its field is an
assembly error, never truncated). A term of `Instr` carries its fields at their own widths, so every term of `Instr` is
well formed; the checks stand where a number can be too large. -/

namespace Sys2Proof

/-- R165: `dev ≤ 255`, `id ≤ 0x7FF`, `mask ≤ 0x7FF`, `ts ≤ 0xFFFF`. -/
def AsmCmd.wellFormed : AsmCmd → Bool
  | .init dev => decide (dev ≤ 255)
  | .aadd id mask => decide (id ≤ 0x7FF) && decide (mask ≤ 0x7FF)
  | .tsrec ts => decide (ts ≤ 0xFFFF)
  | .accept id => decide (id ≤ 0x7FF)
  | .nop | .disable | .enable | .solve | .setspeed | .aclr | .htx | .hrx | .rpsr | .upderr | .htxe
  | .acceptAll | .poll => true

end Sys2Proof
end

