-- ==== Sys2Proof/Decode.lean ====
section
/-! DEFINITION. The decoder of command words, total on all 2^32 words (`30_encoding.md` R150 to R155), the encoder, the
match and mask table of R153, and the assembler of R165, R166. -/

namespace Sys2Proof

/-- Why a word is illegal (R155). -/
inductive DecodeError where
  /-- `OP` is 0xE or 0xF. -/
  | reservedOpcode
  /-- A bit that R150 shows as 0 for this `OP` is 1. -/
  | mustBeZero
  deriving DecidableEq, Repr

/-- The opcode field `OP`, bits 31:28 in every format (R150). -/
def opField (w : Word) : BitVec 4 := w.extractLsb' 28 4

/-- Format Z (R150): bits 27:0 are zero. -/
def decodeZ (w : Word) (i : Instr) : Except DecodeError Instr :=
  if w.extractLsb' 0 28 = 0 then .ok i else .error .mustBeZero

/-- Format D (R150): bits 27:8 are zero, bits 7:0 are `dev`. -/
def decodeD (w : Word) : Except DecodeError Instr :=
  if w.extractLsb' 8 20 = 0 then .ok (.init (w.extractLsb' 0 8)) else .error .mustBeZero

/-- Format F (R150): bit 27 and bits 15:11 are zero, bits 26:16 are `id`, bits 10:0 are `mask`. -/
def decodeF (w : Word) : Except DecodeError Instr :=
  if w.extractLsb' 27 1 = 0 ∧ w.extractLsb' 11 5 = 0 then
    .ok (.aadd (w.extractLsb' 16 11) (w.extractLsb' 0 11))
  else .error .mustBeZero

/-- Format T (R150): bits 27:16 are zero, bits 15:0 are `ts`. -/
def decodeT (w : Word) : Except DecodeError Instr :=
  if w.extractLsb' 16 12 = 0 then .ok (.tsrec (w.extractLsb' 0 16)) else .error .mustBeZero

/-- The decoder (R152, R155). -/
def decode (w : Word) : Except DecodeError Instr :=
  match (opField w).toNat with
  | 0x0 => decodeZ w .nop
  | 0x1 => decodeD w
  | 0x2 => decodeZ w .disable
  | 0x3 => decodeZ w .enable
  | 0x4 => decodeZ w .solve
  | 0x5 => decodeZ w .setspeed
  | 0x6 => decodeZ w .aclr
  | 0x7 => decodeF w
  | 0x8 => decodeZ w .htx
  | 0x9 => decodeZ w .hrx
  | 0xA => decodeT w
  | 0xB => decodeZ w .rpsr
  | 0xC => decodeZ w .upderr
  | 0xD => decodeZ w .htxe
  | _ => .error .reservedOpcode

/-- The encoder, written from the format table of R150 (`a ++ b` has `a` in the high bits, `00_scope.md` R14). -/
def encode : Instr → Word
  | .nop => 0x0#4 ++ 0#28
  | .init dev => 0x1#4 ++ 0#20 ++ dev
  | .disable => 0x2#4 ++ 0#28
  | .enable => 0x3#4 ++ 0#28
  | .solve => 0x4#4 ++ 0#28
  | .setspeed => 0x5#4 ++ 0#28
  | .aclr => 0x6#4 ++ 0#28
  | .aadd id mask => 0x7#4 ++ 0#1 ++ id ++ 0#5 ++ mask
  | .htx => 0x8#4 ++ 0#28
  | .hrx => 0x9#4 ++ 0#28
  | .tsrec ts => 0xA#4 ++ 0#12 ++ ts
  | .rpsr => 0xB#4 ++ 0#28
  | .upderr => 0xC#4 ++ 0#28
  | .htxe => 0xD#4 ++ 0#28

/-- The `match` value of an instruction's row (R153). -/
def rowMatch : Instr → Word
  | .nop => 0x00000000
  | .init _ => 0x10000000
  | .disable => 0x20000000
  | .enable => 0x30000000
  | .solve => 0x40000000
  | .setspeed => 0x50000000
  | .aclr => 0x60000000
  | .aadd _ _ => 0x70000000
  | .htx => 0x80000000
  | .hrx => 0x90000000
  | .tsrec _ => 0xA0000000
  | .rpsr => 0xB0000000
  | .upderr => 0xC0000000
  | .htxe => 0xD0000000

/-- The `mask` value of an instruction's row (R153). -/
def rowMask : Instr → Word
  | .init _ => 0xFFFFFF00
  | .aadd _ _ => 0xF800F800
  | .tsrec _ => 0xFFFF0000
  | .nop | .disable | .enable | .solve | .setspeed | .aclr | .htx | .hrx | .rpsr | .upderr | .htxe => 0xFFFFFFFF

/-- R153: the word `w` is a command of the row of `i`. -/
def meetsRow (w : Word) (i : Instr) : Bool := w &&& rowMask i == rowMatch i

/-- One instruction of every row, operands 0: the table of R153 in its order. -/
def tableRows : List Instr :=
  [.nop, .init 0, .disable, .enable, .solve, .setspeed, .aclr, .aadd 0 0, .htx, .hrx, .tsrec 0, .rpsr, .upderr, .htxe]

/-- The instruction the decoder reads from the bits `w`, numbered as the opcode table numbers them. A command is one
32-bit word with no byte order of its own (`20_memory.md` R102), so the bits are the word. -/
def decodeTableWord (_nbits w : Nat) : Option Instr :=
  if w < 2 ^ 32 then (decode (BitVec.ofNat 32 w)).toOption else none

/-- The assembler (R165, R166): `none` is the assembly error of an operand that does not fit. -/
def AsmCmd.assemble (a : AsmCmd) : Option Instr :=
  if a.wellFormed then
    match a with
    | .nop => some .nop
    | .init dev => some (.init (BitVec.ofNat 8 dev))
    | .disable => some .disable
    | .enable => some .enable
    | .solve => some .solve
    | .setspeed => some .setspeed
    | .aclr => some .aclr
    | .aadd id mask => some (.aadd (BitVec.ofNat 11 id) (BitVec.ofNat 11 mask))
    | .htx => some .htx
    | .hrx => some .hrx
    | .tsrec ts => some (.tsrec (BitVec.ofNat 16 ts))
    | .rpsr => some .rpsr
    | .upderr => some .upderr
    | .htxe => some .htxe
    | .accept id => some (.aadd (BitVec.ofNat 11 id) 0x7FF)
    | .acceptAll => some (.aadd 0 0)
    | .poll => some .upderr
  else none

/-- The word the assembler writes to a command port for a source command. -/
def AsmCmd.word (a : AsmCmd) : Option Word := a.assemble.map encode

/-! The textual form (R165): a mnemonic in upper case, then its operands separated by commas; numbers are decimal or `0x`
hexadecimal. Text is a list of characters. R165 says no more of the text: where blanks may stand and the case of hexadecimal
digits are the model's (DESIGN CHOICE, assumption log 28). -/

/-- A decimal digit. -/
def decDigit (c : Char) : Option Nat := if '0' ≤ c ∧ c ≤ '9' then some (c.toNat - '0'.toNat) else none

/-- A hexadecimal digit, in either case (DESIGN CHOICE, assumption log 28). -/
def hexDigit (c : Char) : Option Nat :=
  if '0' ≤ c ∧ c ≤ '9' then some (c.toNat - '0'.toNat)
  else if 'a' ≤ c ∧ c ≤ 'f' then some (c.toNat - 'a'.toNat + 10)
  else if 'A' ≤ c ∧ c ≤ 'F' then some (c.toNat - 'A'.toNat + 10)
  else none

/-- Digits read from the left in a base, after the value `acc`. -/
def readDigits (base : Nat) (digit : Char → Option Nat) : List Char → Nat → Option Nat
  | [], acc => some acc
  | c :: cs, acc => (digit c).bind (fun d => readDigits base digit cs (acc * base + d))

/-- A number: at least one digit, after a small `x` where it is hexadecimal. -/
def readNumber : List Char → Option Nat
  | [] => none
  | '0' :: 'x' :: c :: cs => readDigits 16 hexDigit (c :: cs) 0
  | c :: cs => readDigits 10 decDigit (c :: cs) 0

/-- The parts of a text between separators. DESIGN CHOICE (assumption log 28): every blank is left out, also one inside a
number. -/
def splitAt (sep : Char) : List Char → List Char → List (List Char)
  | [], acc => [acc.reverse]
  | c :: cs, acc =>
    if c = sep then acc.reverse :: splitAt sep cs []
    else if c = ' ' then splitAt sep cs acc
    else splitAt sep cs (c :: acc)

/-- The operands after the mnemonic: none for an empty rest. -/
def readOperands (cs : List Char) : Option (List Nat) :=
  if cs.all (fun c => c = ' ') then some [] else (splitAt ',' cs []).mapM readNumber

/-- The source command with a mnemonic and operands; `none` where the number of operands is wrong. -/
def commandOf (mnemonic : List Char) (ops : List Nat) : Option AsmCmd :=
  match mnemonic, ops with
  | ['N', 'O', 'P'], [] => some .nop
  | ['I', 'N', 'I', 'T'], [dev] => some (.init dev)
  | ['D', 'I', 'S', 'A', 'B', 'L', 'E'], [] => some .disable
  | ['E', 'N', 'A', 'B', 'L', 'E'], [] => some .enable
  | ['S', 'O', 'L', 'V', 'E'], [] => some .solve
  | ['S', 'E', 'T', 'S', 'P', 'E', 'E', 'D'], [] => some .setspeed
  | ['A', 'C', 'L', 'R'], [] => some .aclr
  | ['A', 'A', 'D', 'D'], [id, mask] => some (.aadd id mask)
  | ['H', 'T', 'X'], [] => some .htx
  | ['H', 'R', 'X'], [] => some .hrx
  | ['T', 'S', 'R', 'E', 'C'], [ts] => some (.tsrec ts)
  | ['R', 'P', 'S', 'R'], [] => some .rpsr
  | ['U', 'P', 'D', 'E', 'R', 'R'], [] => some .upderr
  | ['H', 'T', 'X', 'E'], [] => some .htxe
  | ['A', 'C', 'C', 'E', 'P', 'T'], [id] => some (.accept id)
  | ['A', 'C', 'C', 'E', 'P', 'T', 'A', 'L', 'L'], [] => some .acceptAll
  | ['P', 'O', 'L', 'L'], [] => some .poll
  | _, _ => none

/-- The source command a line of text is (R165, R166). DESIGN CHOICE (assumption log 28): the mnemonic stands at the start of
the line and ends at the first blank. -/
def parseLine (line : List Char) : Option AsmCmd :=
  (readOperands (line.dropWhile (fun c => c ≠ ' '))).bind (commandOf (line.takeWhile (fun c => c ≠ ' ')))

end Sys2Proof
end

