-- ==== Sys2Proof/Machine/State.lean ====
section
/-! DEFINITION. The machine's state as plain data: CANDRV's registers and frames (`10_state.md`), the controllers, the
message RAM, the collaborators, and which agent moves next. -/

namespace Sys2Proof.Machine

/-- The two contexts (R40): foreground and interrupt service. -/
inductive Ctx where
  | fg | is
  deriving DecidableEq, Repr

/-- The result codes of `60_exceptions.md` R360. -/
inductive ResultCode where
  | ok | badDev | noInst | illCmd | ctx
  deriving DecidableEq, Repr

/-- The three observable bus-health states (`46_bus_health.md` R335). -/
inductive Health where
  | errorActive | errorWarning | busOff
  deriving DecidableEq, Repr

/-- `CSTATE` (R45). The bits that read as 0 are not stored. -/
structure CState where
  inst    : Bool
  enabled : Bool
  warning : Bool
  busOff  : Bool
  btFb    : Bool
  health  : Health
  dev     : BitVec 8
  deriving DecidableEq, Repr

/-- The stored bits of `STAT_c` (R46); `busy` is whether the port holds a frame. -/
structure Stat where
  done : Bool
  ok   : Bool
  bp   : Bool
  ovr  : Bool
  err  : ResultCode
  n    : BitVec 16
  deriving DecidableEq, Repr

/-- The sequencer positions (R41): one label per primitive call, named as the operation rules name them. `te*` are the
steps of the inlined `DrainTxEvents` (`44_rx_engine.md` R298), used by HRX and HTXE. -/
inductive Label where
  | nopS0
  | initS0 | initS1 | initS2 | initS3 | initS4 | initS5 | initS6 | initS7 (k : Nat)
  | initS8 | initS9 | initS10 | initS11 | initS12 | initS13
  | disableS1 | disableS2
  | enableS1
  | solveS0
  | setspeedS0 | setspeedS1 | setspeedS2 | setspeedS3 | setspeedS4 | setspeedS5
  | aclrS0 | aclrS1 | aclrS2 | aclrS3 (k : Nat) | aclrS4 | aclrS5
  | aaddS0 | aaddS1
  | htxS0 | htxL0 | htxL1 | htxL2 | htxL3 | htxL4 | htxL5 | htxL6 | htxL7 | htxL8 | htxL9 | htxX1
  | hrxL0 | hrxL1 | hrxL2 | hrxL3 | hrxL4 | hrxL5 | hrxL6 | hrxL7 | hrxL8 | hrxL9 | hrxE0
  | teL0 | teL1 | teL2 | teL3 | teL4 | teL5 | teL6 | teL7 | teL8 | teL9
  | htxeS0
  | tsrecS1 | tsrecS2 | tsrecS3
  | rpsrS1
  | upderrS1 | upderrS2
  deriving DecidableEq, Repr

/-- The local variables of a frame (R40), under the names of the operation rules. In a new frame all are 0 ("empty",
`30_encoding.md` R161; assumption log 13): no label reads one that an earlier label has not written. -/
structure Locals where
  /-- `loc.was` of SETSPEED and ACLR. -/
  was   : Bool
  /-- `s.put` of HTX. -/
  put   : Nat
  /-- `m` of HTX. -/
  m     : TxMsg
  /-- `s.get` of HRX. -/
  get   : Nat
  w0    : Word
  w1    : Word
  w2    : Word
  w3    : Word
  /-- `loc.t0`, `loc.now16`, `loc.t1` of `Reconcile`. -/
  t0    : Word
  now16 : BitVec 16
  t1    : Word
  /-- `e.get`, `v0`, `v1`, `p0`, `p1` of `DrainTxEvents`. -/
  eget  : Nat
  v0    : Word
  v1    : Word
  p0    : Word
  p1    : Word
  deriving DecidableEq, Repr, Inhabited

/-- `loc = empty` (`30_encoding.md` R161). -/
def Locals.empty : Locals where
  was := false
  put := 0
  m := { lid := 0, length := 0, data := Vector.replicate 8 0 }
  get := 0
  w0 := 0
  w1 := 0
  w2 := 0
  w3 := 0
  t0 := 0
  now16 := 0
  t1 := 0
  eget := 0
  v0 := 0
  v1 := 0
  p0 := 0
  p1 := 0

/-- The activation record of a running command (R40): `op` carries the latched operands `arg`. -/
structure Frame where
  op   : Instr
  seq  : Label
  loc  : Locals
  crit : Bool
  n    : Nat
  bp   : Bool
  deriving DecidableEq, Repr

/-- One command port: `CMD_c`, `STAT_c` and `frame[c]`. -/
structure Port where
  cmd   : Word
  stat  : Stat
  frame : Option Frame
  deriving DecidableEq, Repr

/-- The error-counter file (R55). -/
structure ErrCounters where
  stuff : Word
  form  : Word
  ack   : Word
  crc   : Word
  bit0  : Word
  bit1  : Word
  deriving DecidableEq, Repr

/-- The host-visible registers other than the command ports (R52). -/
structure HostRegs where
  pClock  : Word
  pRate   : Word
  pSp     : BitVec 16
  pRj     : BitVec 16
  btPresc : Word
  btSeg1  : Word
  btSeg2  : Word
  btSjw   : Word
  cstate  : CState
  fcount  : Word
  errs    : ErrCounters
  /-- `REC` (R56). -/
  recv    : BitVec 7
  /-- `TEC` (R56). -/
  tec     : BitVec 8
  errLog  : Word
  rxCount : Word
  tsAbs   : Word
  cpb     : Word
  deriving DecidableEq, Repr

/-- A frame on the bus that a controller has received. The last four fields are the controller's own choices where the
contract leaves them open: whether a frame that the reject flags do not decide is accepted, whether an overwriting
arrival raises the "new message" condition (assumption log 11), and the unused bits of slot words 0 and 1 (`20_memory.md`
R115). -/
structure BusFrame where
  id         : BitVec 11
  rtr        : Bool
  xtd        : Bool
  dlc        : BitVec 4
  data       : Payload
  openAccept : Bool
  openIrq    : Bool
  junk0      : Word
  junk1      : Word
  deriving DecidableEq, Repr

/-- One CAN controller: its registers (R59 to R78) and the hidden state of R85. `txReq` is the pending set of
`20_memory.md` R136 in doorbell order, oldest first (R137). The last two fields are frames in progress, which the moments
R133 and R137 name imply. -/
structure Ctrl where
  mode    : ModeReg
  btr     : BtrReg
  gfc     : GfcReg
  fltc    : ZoneReg
  rxc     : RxcReg
  txc     : ZoneReg
  txec    : ZoneReg
  ie      : IrqSet
  ils     : IrqSet
  ir      : IrqSet
  psr     : PsrReg
  ecr     : EcrReg
  tscnt   : BitVec 16
  rxGet   : Nat
  rxFill  : Nat
  txPut   : Nat
  txReq   : List Nat
  txeGet  : Nat
  txeFill : Nat
  /-- The frames accepted and not yet counted in `rx_fill`, oldest first, each with the bit-time counter at the moment of
  its acceptance (R133). -/
  rxHeld  : List (BusFrame × BitVec 16)
  /-- The slots transmitted whose completion is still to come, each with the bit-time counter at its transmission (R137,
  R117). -/
  txSent  : List (Nat × BitVec 16)
  deriving DecidableEq, Repr

/-- A step of a controller on its own (`20_memory.md` R133 to R141). DESIGN CHOICE (assumption log 30): there is no power-down
among them; the return from one (`60_exceptions.md` R386) starts another run, in any state the platform leaves. -/
inductive CtrlEvent where
  /-- A frame is received and, by its filters, accepted or not (R142); this is the moment `ts` samples (R133). -/
  | arrive (f : BusFrame)
  /-- The controller stores word `w` of the slot of the oldest accepted frame, before the frame counts in `fill` (R105,
  U17). -/
  | rxWord (w : Fin 4)
  /-- The oldest accepted frame is stored and counts in `fill`, or meets a full ring (R133, R135). -/
  | rxStore
  /-- A requested slot is transmitted, once every older request has been; this is the moment `ts` of its event samples
  (R137, R117). -/
  | txSend (slot : Nat)
  /-- The oldest request is completed (R137, R138); the words are the controller's choice of the bits of its TX event that
  carry no field. -/
  | txDone (junk0 junk1 : Word)
  /-- A bus error (1 to 6) or an error-free transfer (0) is recorded in `PSR.lec` (R139). -/
  | lec (code : BitVec 3)
  /-- `PSR.warning` and `PSR.bus_off` change (R139). -/
  | status (warning busOff : Bool)
  /-- `ECR.rec` and `ECR.tec` move (R140). -/
  | counters (recv : BitVec 7) (tec : BitVec 8)
  /-- `ECR.cel` counts one event (R140). -/
  | celUp
  /-- `ECR.cel` takes a value: what it counts is open, and each read value is a draw (R140, U14). -/
  | celDraw (v : BitVec 8)
  /-- One CAN bit time passes (R141). -/
  | tick
  /-- In initialisation mode the bit-time counter is the controller's own affair (`45_timestamp.md` R329 e). -/
  | stoppedCount (v : BitVec 16)
  /-- In initialisation mode the controller may drop a queued request (U5). `tx_put` stays (DESIGN CHOICE, assumption log 25),
  or moves on to the next free slot where it would name a requested one (R68). -/
  | dropRequest (slot : Nat)
  /-- A reader outside CANDRV reads `PSR` and takes the last-error code away (R87, `46_bus_health.md` R345 e). -/
  | psrRead
  /-- A reader outside CANDRV reads `ECR`, taking `cel` away on a variant that clears on read (R87, R345 e). -/
  | ecrRead
  /-- A writer outside CANDRV, such as "the platform's own driver code", writes `MODE` (`70_reset_and_hazards.md` R415). -/
  | outsideMode (r : ModeReg)
  /-- The platform's handler clears pending conditions "through its own path to the controller" (`60_exceptions.md` R365,
  `70_reset_and_hazards.md` R421), with a write to `IR`. -/
  | outsideIr (r : IrqSet)
  deriving DecidableEq, Repr

/-- One move of one agent (`20_memory.md` R120, R121). -/
inductive Turn where
  /-- The sequencer takes a step (R42). -/
  | seq
  /-- The host writes `v`, `bytes` bytes wide, at host-port offset `off` (R52, R104). -/
  | hostWrite (off bytes : Nat) (v : Word)
  /-- Controller `dev` takes a step of its own. -/
  | ctrl (dev : BitVec 8) (e : CtrlEvent)
  /-- The outgoing-message source moves: it now holds these messages, next one first. Any move is one of these, a message
  gained wherever it goes, reordered or withdrawn (`00_scope.md` R8, R21, `60_exceptions.md` R382; assumption log 27). -/
  | source (q : List TxMsg)
  /-- The host clock advances. -/
  | clock (ticks : Nat)
  /-- The reset input is pulsed (`70_reset_and_hazards.md` R400). -/
  | reset
  deriving DecidableEq, Repr

/-- The whole machine. -/
structure State where
  /-- The configuration: constant, no step changes it (R402; assumption log 1). -/
  cfg      : Cfg
  regs     : HostRegs
  fgPort   : Port
  isPort   : Port
  /-- The controller every device index names (R45 `dev`); one slot per value of the 8-bit index (assumption log 6). -/
  ctrls    : Vector Ctrl 256
  /-- The message RAM: bytes at byte offsets, in the canonical form of `Memory.wf`. -/
  mem      : List Host.Cell
  /-- The messages the outgoing-message source holds, next one first. -/
  source   : List TxMsg
  /-- The messages handed to the consumer, oldest first. -/
  consumer : List RxMsg
  /-- The host's free-running clock counter (`45_timestamp.md` R321). -/
  clock    : Word
  /-- The moves to come, next one first; when none is listed the sequencer moves (assumption log 3). -/
  sched    : List Turn
  /-- Counter of the free values drawn so far (assumption log 9). -/
  free     : Nat
  deriving DecidableEq, Repr

/-- Why the machine can be stuck. Both are safe: no run reaches one, and nothing is claimed after one. -/
inductive Fault where
  /-- A meaning is asked for while no frame can step; raised by `withFrame`. Safe: `step` never asks then. -/
  | noFrame
  /-- The frame's label is not one of its operation (R41, R43 rule that out); raised by every meaning. Safe. -/
  | foreignLabel
  deriving DecidableEq, Repr

/-- What the model gives no meaning to. -/
inductive Refusal where
  /-- An instruction without a meaning yet; raised by `exec`'s arms only (none is left). Safe. -/
  | notModelled (mnemonic : String)
  /-- The configuration is not valid: "A model refuses an invalid `cfg`" (`00_scope.md` R13); raised by `step`. Safe. -/
  | invalidConfig
  deriving DecidableEq, Repr

/-- The outcome of a step. -/
abbrev Result := Host.Outcome State Fault Refusal

/-- `STAT_c` at reset and after the clearing of `30_encoding.md` R161 (1). -/
def Stat.clear : Stat where
  done := false
  ok := false
  bp := false
  ovr := false
  err := .ok
  n := 0

/-- A command port at reset (`70_reset_and_hazards.md` R401). -/
def Port.reset : Port where
  cmd := 0
  stat := Stat.clear
  frame := none

/-- `CSTATE` at reset (R401). -/
def CState.reset : CState where
  inst := false
  enabled := false
  warning := false
  busOff := false
  btFb := false
  health := .errorActive
  dev := 0

/-- All error counters 0 (R401, R50). -/
def ErrCounters.zero : ErrCounters where
  stuff := 0
  form := 0
  ack := 0
  crc := 0
  bit0 := 0
  bit1 := 0

/-- The host-visible registers at reset (R401), `P_SP` and `P_RJ` at the defaults of the configuration. -/
def HostRegs.reset (cfg : Cfg) : HostRegs where
  pClock := 0
  pRate := 0
  pSp := BitVec.ofNat 16 cfg.spDefault
  pRj := BitVec.ofNat 16 cfg.rjDefault
  btPresc := 0
  btSeg1 := 0
  btSeg2 := 0
  btSjw := 0
  cstate := CState.reset
  fcount := 0
  errs := ErrCounters.zero
  recv := 0
  tec := 0
  errLog := 0
  rxCount := 0
  tsAbs := 0
  cpb := 0

/-- A controller before INIT. R403 leaves every value open; PRESUMED (assumption log 6): the values R403 names for
orientation (initialisation mode, configuration change disabled, rings unconfigured, `lec = 7`), all else 0. -/
def Ctrl.powerOn : Ctrl where
  mode := { init := true, cce := false, fd := false }
  btr := { presc := 0, seg1 := 0, seg2 := 0, sjw := 0 }
  gfc := { rejNomatch := false, rejRemote := false }
  fltc := { base := 0, count := 0 }
  rxc := { base := 0, count := 0, overwrite := false }
  txc := { base := 0, count := 0 }
  txec := { base := 0, count := 0 }
  ie := { rxNew := false, txDone := false }
  ils := { rxNew := false, txDone := false }
  ir := { rxNew := false, txDone := false }
  psr := { lec := 7, warning := false, busOff := false }
  ecr := { recv := 0, tec := 0, cel := 0 }
  tscnt := 0
  rxGet := 0
  rxFill := 0
  txPut := 0
  txReq := []
  txeGet := 0
  txeFill := 0
  rxHeld := []
  txSent := []

/-- The machine right after reset under a given configuration. -/
def State.resetWith (cfg : Cfg) : State where
  cfg := cfg
  regs := HostRegs.reset cfg
  fgPort := Port.reset
  isPort := Port.reset
  ctrls := Vector.replicate 256 Ctrl.powerOn
  mem := []
  source := []
  consumer := []
  clock := 0
  sched := []
  free := 0

/-- The machine right after reset, under the reference configuration of `00_scope.md` R12 (assumption log 1). -/
def State.reset : State := State.resetWith Cfg.reference

end Sys2Proof.Machine
end

