-- ==== Sys2Proof/Machine/Layout.lean ====
section
/-! DEFINITION. The message-RAM layout (`20_memory.md` R110, R111) and which configurations are valid (`00_scope.md` R12,
R13; `20_memory.md` R112). -/

namespace Sys2Proof

/-- `up(x)`: `x` rounded up to a multiple of `ALIGN` (R110). -/
def Cfg.up (cfg : Cfg) (x : Nat) : Nat := (x + cfg.align - 1) / cfg.align * cfg.align

/-- `off_flt` (R110). -/
def Cfg.offFlt (cfg : Cfg) : Nat := cfg.up cfg.poolOffset

/-- `off_rx` (R110). -/
def Cfg.offRx (cfg : Cfg) : Nat := cfg.up (cfg.offFlt + cfg.maxf * cfg.fltSz)

/-- `off_tx` (R110). -/
def Cfg.offTx (cfg : Cfg) : Nat := cfg.up (cfg.offRx + cfg.rxd * cfg.rxSz)

/-- `off_txe` (R110). -/
def Cfg.offTxe (cfg : Cfg) : Nat := cfg.up (cfg.offTx + cfg.txd * cfg.txSz)

/-- `end` (R110): the first byte offset after the last zone. -/
def Cfg.endOff (cfg : Cfg) : Nat := cfg.offTxe + cfg.txed * cfg.txeSz

/-- The byte offset of filter word `k` (R111). -/
def Cfg.fltWord (cfg : Cfg) (k : Nat) : Nat := cfg.offFlt + k * cfg.fltSz

/-- The byte offset of word `w` of RX slot `i` (R111). -/
def Cfg.rxWord (cfg : Cfg) (i w : Nat) : Nat := cfg.offRx + i * cfg.rxSz + 4 * w

/-- The byte offset of word `w` of TX slot `i` (R111). -/
def Cfg.txWord (cfg : Cfg) (i w : Nat) : Nat := cfg.offTx + i * cfg.txSz + 4 * w

/-- The byte offset of word `w` of TX-event element `i` (R111). -/
def Cfg.txeWord (cfg : Cfg) (i w : Nat) : Nat := cfg.offTxe + i * cfg.txeSz + 4 * w

/-- `LayoutValid(cfg)` (R112); that the zones do not overlap holds by construction. -/
def Cfg.layoutValid (cfg : Cfg) : Bool :=
  decide (cfg.endOff ≤ cfg.poolOffset + cfg.poolSize ∧ cfg.endOff ≤ 0x10000)
    && [cfg.offFlt, cfg.offRx, cfg.offTx, cfg.offTxe].all (fun off => off % cfg.align == 0 && decide (off ≤ 0xFFFF))

/-- Every element is at least as long as the words its format has (R114 to R117), so that elements do not overlap. -/
def Cfg.elementsFit (cfg : Cfg) : Bool :=
  decide (4 ≤ cfg.fltSz ∧ 16 ≤ cfg.rxSz ∧ 16 ≤ cfg.txSz ∧ 8 ≤ cfg.txeSz)

/-- Fields, each a low bit and a width, lie within 32 bits and do not overlap. -/
def fieldsFit : List (Nat × Nat) → Bool
  | [] => true
  | (lo, n) :: rest =>
    decide (lo + n ≤ 32) && (rest.all (fun f => decide (lo + n ≤ f.1 ∨ f.1 + f.2 ≤ lo)) && fieldsFit rest)

/-- A bit layout is injective on the records and the zero word is a disabled filter entry (R12, U20, `20_memory.md` R114). Of
the register offsets nothing is asked (U20: "only these properties"). -/
def BitLayout.valid (l : BitLayout) : Bool :=
  l.toRxCode != 0 &&
    ([[(l.fltMode, 2), (l.fltAction, 3), (l.fltId, 11), (l.fltMask, 11)],
      [(l.rxXtd, 1), (l.rxRtr, 1), (l.rxId, 11)], [(l.rxDlc, 4), (l.rxTs, 16)],
      [(l.txRtr, 1), (l.txId, 11)], [(l.txTag, 8), (l.txEvt, 1), (l.txDlc, 4)],
      [(l.evRtr, 1), (l.evId, 11)], [(l.evTag, 8), (l.evDlc, 4), (l.evTs, 16)]].all fieldsFit)

/-- The legal values of a device record (`10_state.md` R60 to R78) under a configuration: every field in the range its
rule gives, bases a multiple of 4 (`20_memory.md` R103), timing values as the solver bounds them (`41_bit_timing.md`
R232). -/
def DevRec.legal (cfg : Cfg) : DevRec → Bool
  | .btr r =>
    decide (1 ≤ r.presc.toNat ∧ r.presc.toNat ≤ cfg.prescMax ∧ 1 ≤ r.seg1.toNat ∧ r.seg1.toNat ≤ cfg.seg1Max ∧
      1 ≤ r.seg2.toNat ∧ r.seg2.toNat ≤ cfg.seg2Max ∧ 1 ≤ r.sjw.toNat ∧ r.sjw.toNat ≤ cfg.sjwMax ∧
      r.sjw.toNat ≤ cfg.seg2Max)
  | .fltc r => decide (r.base.toNat % 4 = 0 ∧ r.count ≤ cfg.maxf)
  | .rxc r => decide (r.base.toNat % 4 = 0 ∧ r.count ≤ cfg.rxd)
  | .rxs r => decide (r.fill ≤ cfg.rxd ∧ r.get < cfg.rxd)
  | .rxa i => decide (i < cfg.rxd)
  | .txc r => decide (r.base.toNat % 4 = 0 ∧ r.count ≤ cfg.txd)
  | .txs r => decide (r.put < cfg.txd)
  | .txec r => decide (r.base.toNat % 4 = 0 ∧ r.count ≤ cfg.txed)
  | .txes r => decide (r.fill ≤ cfg.txed ∧ r.get < cfg.txed)
  | .txea i => decide (i < cfg.txed)
  | .mode _ | .gfc _ | .txrq _ | .psr _ | .ecr _ | .ie _ | .ils _ | .ir _ | .tscnt _ => true

/-- The message-RAM half of what U20 asks of a packing: `unpack_X(pack_X(r)) = r` on legal records, whatever the
controller puts in the bits that carry no field, and `unpack_flt(0).action = DISABLED`. -/
def PackFns.messageLawful (p : PackFns) : Bool :=
  decide ((p.decFlt 0).action = .disabled ∧
    (∀ id mask : BitVec 11,
      p.decFlt (p.encFlt { mode := .maskId, action := .toRx, id := id, mask := mask }) =
        { mode := .maskId, action := .toRx, id := id, mask := mask }) ∧
    (∀ (id : BitVec 11) (rtr xtd : Bool) (junk : Word),
      p.decRx0 (p.encRx0 { id := id, rtr := rtr, xtd := xtd } junk) = { id := id, rtr := rtr, xtd := xtd }) ∧
    (∀ (dlc : BitVec 4) (ts : BitVec 16) (junk : Word),
      p.decRx1 (p.encRx1 { dlc := dlc, ts := ts } junk) = { dlc := dlc, ts := ts }) ∧
    (∀ (id : BitVec 11) (rtr : Bool), p.decTxId (p.encTxId { id := id, rtr := rtr }) = { id := id, rtr := rtr }) ∧
    (∀ (dlc : BitVec 4) (evt : Bool) (tag : BitVec 8),
      p.decTxCtl (p.encTxCtl { dlc := dlc, evt := evt, tag := tag }) = { dlc := dlc, evt := evt, tag := tag }) ∧
    (∀ (id : BitVec 11) (rtr : Bool) (junk : Word),
      p.decTxe0 (p.encTxe0 { id := id, rtr := rtr } junk) = { id := id, rtr := rtr }) ∧
    (∀ (dlc : BitVec 4) (ts : BitVec 16) (tag : BitVec 8) (junk : Word),
      p.decTxe1 (p.encTxe1 { dlc := dlc, ts := ts, tag := tag } junk) = { dlc := dlc, ts := ts, tag := tag }))

/-- A device record, if legal, is read back from its word. -/
def PackFns.readsBack (p : PackFns) (cfg : Cfg) (r : DevRec) : Bool :=
  !r.legal cfg || decide (p.decDev r.reg (p.encDev r) = r)

/-- Every legal record of the registers CANDRV programs is read back. A count or index past 8 bits is no legal value of
any configuration (R12). -/
def PackFns.configLawful (p : PackFns) (cfg : Cfg) : Bool :=
  decide ((∀ a b c : Bool, p.readsBack cfg (.mode { init := a, cce := b, fd := c }) = true) ∧
    (∀ a b c d : Word, p.readsBack cfg (.btr { presc := a, seg1 := b, seg2 := c, sjw := d }) = true) ∧
    (∀ a b : Bool, p.readsBack cfg (.gfc { rejNomatch := a, rejRemote := b }) = true) ∧
    (∀ (a : BitVec 16) (n : BitVec 8), p.readsBack cfg (.fltc { base := a, count := n.toNat }) = true) ∧
    (∀ (a : BitVec 16) (n : BitVec 8) (o : Bool),
      p.readsBack cfg (.rxc { base := a, count := n.toNat, overwrite := o }) = true) ∧
    (∀ (a : BitVec 16) (n : BitVec 8), p.readsBack cfg (.txc { base := a, count := n.toNat }) = true) ∧
    (∀ (a : BitVec 16) (n : BitVec 8), p.readsBack cfg (.txec { base := a, count := n.toNat }) = true))

/-- Every legal record of the status, acknowledge and doorbell registers is read back. -/
def PackFns.ringLawful (p : PackFns) (cfg : Cfg) : Bool :=
  decide ((∀ n m : BitVec 8, p.readsBack cfg (.rxs { fill := n.toNat, get := m.toNat }) = true) ∧
    (∀ n m : BitVec 8, p.readsBack cfg (.txes { fill := n.toNat, get := m.toNat }) = true) ∧
    (∀ (n : BitVec 8) (o : Bool), p.readsBack cfg (.txs { put := n.toNat, full := o }) = true) ∧
    (∀ n : BitVec 8, p.readsBack cfg (.rxa n.toNat) = true) ∧ (∀ n : BitVec 8, p.readsBack cfg (.txea n.toNat) = true) ∧
    (∀ w : Word, p.readsBack cfg (.txrq w) = true))

/-- Every legal record of the other registers is read back. -/
def PackFns.statusLawful (p : PackFns) (cfg : Cfg) : Bool :=
  decide ((∀ (l : BitVec 3) (a b : Bool), p.readsBack cfg (.psr { lec := l, warning := a, busOff := b }) = true) ∧
    (∀ (r : BitVec 7) (t c : BitVec 8), p.readsBack cfg (.ecr { recv := r, tec := t, cel := c }) = true) ∧
    (∀ a b : Bool, p.readsBack cfg (.ie { rxNew := a, txDone := b }) = true) ∧
    (∀ a b : Bool, p.readsBack cfg (.ils { rxNew := a, txDone := b }) = true) ∧
    (∀ a b : Bool, p.readsBack cfg (.ir { rxNew := a, txDone := b }) = true) ∧
    (∀ c : BitVec 16, p.readsBack cfg (.tscnt c) = true))

/-- The device half of what U20 asks of a packing; of the register offsets nothing is asked. -/
def PackFns.deviceLawful (p : PackFns) (cfg : Cfg) : Bool :=
  p.configLawful cfg && (p.ringLawful cfg && p.statusLawful cfg)

/-- `cfg.PACK` is "total, injective on legal records" (R12, U20). The prescaler field of the reference `BTR` is 9 bits
wide ("Hence ... `PRESC_MAX = 512`", U20), so a bit layout packs no larger one. -/
def Cfg.packValid (cfg : Cfg) : Bool :=
  match cfg.pack with
  | .layout l => decide (cfg.prescMax ≤ 512) && l.valid
  | .other n => (Config.packFns n).messageLawful && (Config.packFns n).deviceLawful cfg

/-- The ranges of R12 on counts and bounds. -/
def Cfg.rangesValid (cfg : Cfg) : Bool :=
  decide (1 ≤ cfg.numDev ∧ 1 ≤ cfg.seg1Max ∧ cfg.seg1Max ≤ 256 ∧ 1 ≤ cfg.seg2Max ∧ cfg.seg2Max ≤ 128 ∧
    1 ≤ cfg.sjwMax ∧ 1 ≤ cfg.prescMax ∧ cfg.fbThreshold = 128 ∧ cfg.spDefault ≤ 1000 ∧ cfg.rjDefault ≤ 1000 ∧
    cfg.rjMin ≤ cfg.rjMax ∧ cfg.rjMax ≤ 1000 ∧ 1 ≤ cfg.rxd ∧ cfg.rxd ≤ 64 ∧ 1 ≤ cfg.txd ∧ cfg.txd ≤ 32 ∧
    cfg.txed ≤ 32 ∧ (cfg.rxOwnTx = true → 1 ≤ cfg.txed) ∧ 1 ≤ cfg.maxf ∧ cfg.maxf ≤ 128 ∧ 1 ≤ cfg.hostclkHz)

/-- The alignment constraints of R12. -/
def Cfg.alignmentValid (cfg : Cfg) : Bool :=
  decide (4 ≤ cfg.align ∧ 2 ^ Nat.log2 cfg.align = cfg.align ∧ cfg.poolOffset % cfg.align = 0)
    && [cfg.fltSz, cfg.rxSz, cfg.txSz, cfg.txeSz].all (fun n => n % 4 == 0)

/-- `LEC_MAP` is a bijection from the codes 1 to 6 to the six counters (R12, `46_bus_health.md` R338). -/
def Cfg.lecMapValid (cfg : Cfg) : Bool :=
  [ErrClass.stuff, .form, .ack, .crc, .bit0, .bit1].all (fun c => cfg.lecMap.toList.contains c)

/-- R13: every constraint of R12 holds and so does `LayoutValid(cfg)`. -/
def Cfg.valid (cfg : Cfg) : Bool :=
  cfg.rangesValid && (cfg.alignmentValid && (cfg.lecMapValid && (cfg.packValid && cfg.layoutValid)))

end Sys2Proof
end

