-- ==== Sys2Proof/Machine/Operands.lean ====
section
/-! DEFINITION. Operand forms: fields of message-RAM words and their packing (`20_memory.md` R101, R114 to R117), logical
ids (`10_state.md` R94), message records, and the admission classes of the operations (`30_encoding.md` R156, R157). -/

namespace Sys2Proof.Machine

/-- A field of `n` bits whose lowest bit is bit `lo` of a word. -/
def getField (w : Word) (lo n : Nat) : BitVec n := w.extractLsb' lo n

/-- The word that has the field `v` at bit `lo` and zeros elsewhere. -/
def putField {n : Nat} (v : BitVec n) (lo : Nat) : Word := v.setWidth 32 <<< lo

/-- A one-bit field. -/
def getBit (w : Word) (lo : Nat) : Bool := w.getLsbD lo

/-- The word that has the bit `b` at bit `lo` and zeros elsewhere. -/
def putBit (b : Bool) (lo : Nat) : Word := putField (BitVec.ofBool b) lo

/-- `word_of(d0, d1, d2, d3)` (R101): little-endian. -/
def wordOf (d0 d1 d2 d3 : Byte) : Word := d3 ++ d2 ++ d1 ++ d0

/-- Byte `k` of a word: bits `8k+7 : 8k` (R101). -/
def byteOf (w : Word) (k : Nat) : Byte := w.extractLsb' (8 * k) 8

/-- Payload word 0: `data[0..3]` (R101). -/
def payloadLow (d : Payload) : Word := wordOf d[0] d[1] d[2] d[3]

/-- Payload word 1: `data[4..7]` (R101). -/
def payloadHigh (d : Payload) : Word := wordOf d[4] d[5] d[6] d[7]

/-- The eight payload bytes of two payload words (R101). -/
def payloadOf (p0 p1 : Word) : Payload :=
  #v[byteOf p0 0, byteOf p0 1, byteOf p0 2, byteOf p0 3, byteOf p1 0, byteOf p1 1, byteOf p1 2, byteOf p1 3]

/-! Logical ids (`10_state.md` R94). -/

/-- `id_of(lid) = lid[10:0]`. -/
def idOf (lid : BitVec 16) : BitVec 11 := lid.extractLsb' 0 11

/-- `remote_of(lid) = lid[11]`. -/
def remoteOf (lid : BitVec 16) : Bool := lid.getLsbD 11

/-- `lid_of(id, r) = (r << 11) | id`. -/
def lidOf (id : BitVec 11) (r : Bool) : BitVec 16 := 0#4 ++ BitVec.ofBool r ++ id

/-! Element formats (R114 to R117). -/

/-- The code of a filter mode under a bit layout (R114). -/
def modeCode (l : BitLayout) : FilterMode → BitVec 2
  | .maskId => l.maskIdCode
  | .other c => c

/-- The filter mode with a code under a bit layout (R114). -/
def modeOf (l : BitLayout) (c : BitVec 2) : FilterMode := if c = l.maskIdCode then .maskId else .other c

/-- The code of a filter action under a bit layout: `DISABLED` is 0, as the zero word requires (R114). -/
def actionCode (l : BitLayout) : FilterAction → BitVec 3
  | .disabled => 0
  | .toRx => l.toRxCode
  | .other c => c

/-- The filter action with a code under a bit layout (R114). -/
def actionOf (l : BitLayout) (c : BitVec 3) : FilterAction :=
  if c = 0 then .disabled else if c = l.toRxCode then .toRx else .other c

/-- `pack_flt` (R114). -/
def packFlt : Pack → FilterRec → Word
  | .layout l, r =>
    putField (modeCode l r.mode) l.fltMode ||| putField (actionCode l r.action) l.fltAction ||| putField r.id l.fltId
      ||| putField r.mask l.fltMask
  | .other n, r => (Config.packFns n).encFlt r

/-- `unpack_flt` (R114). -/
def unpackFlt : Pack → Word → FilterRec
  | .layout l, w =>
    { mode := modeOf l (getField w l.fltMode 2)
      action := actionOf l (getField w l.fltAction 3)
      id := getField w l.fltId 11
      mask := getField w l.fltMask 11 }
  | .other n, w => (Config.packFns n).decFlt w

/-- The record AADD writes: `MASK_ID`, `TO_RX` (R114). -/
def aaddRec (id mask : BitVec 11) : FilterRec where
  mode := .maskId
  action := .toRx
  id := id
  mask := mask

/-- A word whose fields are given and whose other bits, those outside `mask`, are `junk`'s. -/
def withJunk (fields mask junk : Word) : Word := fields ||| (junk &&& ~~~mask)

/-- The bits of RX slot word 0 that carry fields (R115). -/
def rxMask0 (l : BitLayout) : Word :=
  putBit true l.rxXtd ||| putBit true l.rxRtr ||| putField (BitVec.allOnes 11) l.rxId

/-- The bits of RX slot word 1 that carry fields (R115). -/
def rxMask1 (l : BitLayout) : Word := putField (BitVec.allOnes 4) l.rxDlc ||| putField (BitVec.allOnes 16) l.rxTs

/-- RX slot word 0 as the controller writes it; `junk` supplies the other bits (R115). -/
def packRx0 : Pack → RxIdRec → Word → Word
  | .layout l, r, junk =>
    withJunk (putBit r.xtd l.rxXtd ||| putBit r.rtr l.rxRtr ||| putField r.id l.rxId) (rxMask0 l) junk
  | .other n, r, junk => (Config.packFns n).encRx0 r junk

/-- RX slot word 0 as read (R115). -/
def unpackRx0 : Pack → Word → RxIdRec
  | .layout l, w => { id := getField w l.rxId 11, rtr := getBit w l.rxRtr, xtd := getBit w l.rxXtd }
  | .other n, w => (Config.packFns n).decRx0 w

/-- RX slot word 1 as the controller writes it; `junk` supplies the other bits (R115). -/
def packRx1 : Pack → RxCtlRec → Word → Word
  | .layout l, r, junk => withJunk (putField r.dlc l.rxDlc ||| putField r.ts l.rxTs) (rxMask1 l) junk
  | .other n, r, junk => (Config.packFns n).encRx1 r junk

/-- RX slot word 1 as read (R115). -/
def unpackRx1 : Pack → Word → RxCtlRec
  | .layout l, w => { dlc := getField w l.rxDlc 4, ts := getField w l.rxTs 16 }
  | .other n, w => (Config.packFns n).decRx1 w

/-- The header of an RX slot, words 0 and 1 together (R115). -/
structure RxHead where
  id  : BitVec 11
  rtr : Bool
  xtd : Bool
  dlc : BitVec 4
  ts  : BitVec 16
  deriving DecidableEq, Repr

/-- `unpack_rx` on words 0 and 1 (R115). -/
def unpackRx (p : Pack) (w0 w1 : Word) : RxHead where
  id := (unpackRx0 p w0).id
  rtr := (unpackRx0 p w0).rtr
  xtd := (unpackRx0 p w0).xtd
  dlc := (unpackRx1 p w1).dlc
  ts := (unpackRx1 p w1).ts

/-- `pack_txid` (R116). -/
def packTxId : Pack → TxIdRec → Word
  | .layout l, r => putBit r.rtr l.txRtr ||| putField r.id l.txId
  | .other n, r => (Config.packFns n).encTxId r

/-- `unpack_txid` (R116), for the controller. -/
def unpackTxId : Pack → Word → TxIdRec
  | .layout l, w => { id := getField w l.txId 11, rtr := getBit w l.txRtr }
  | .other n, w => (Config.packFns n).decTxId w

/-- `pack_txctl` (R116). -/
def packTxCtl : Pack → TxCtlRec → Word
  | .layout l, r => putField r.tag l.txTag ||| putBit r.evt l.txEvt ||| putField r.dlc l.txDlc
  | .other n, r => (Config.packFns n).encTxCtl r

/-- `unpack_txctl` (R116), for the controller. -/
def unpackTxCtl : Pack → Word → TxCtlRec
  | .layout l, w => { dlc := getField w l.txDlc 4, evt := getBit w l.txEvt, tag := getField w l.txTag 8 }
  | .other n, w => (Config.packFns n).decTxCtl w

/-- The bits of TX-event element word 0 that carry fields (R117). -/
def txeMask0 (l : BitLayout) : Word := putBit true l.evRtr ||| putField (BitVec.allOnes 11) l.evId

/-- The bits of TX-event element word 1 that carry fields (R117). -/
def txeMask1 (l : BitLayout) : Word :=
  putField (BitVec.allOnes 8) l.evTag ||| putField (BitVec.allOnes 4) l.evDlc ||| putField (BitVec.allOnes 16) l.evTs

/-- TX-event element word 0 as the controller writes it; `junk` supplies the other bits ("as RX slot word 0", R117). -/
def packTxe0 : Pack → TxIdRec → Word → Word
  | .layout l, r, junk => withJunk (putBit r.rtr l.evRtr ||| putField r.id l.evId) (txeMask0 l) junk
  | .other n, r, junk => (Config.packFns n).encTxe0 r junk

/-- TX-event element word 0 as read (R117). -/
def unpackTxe0 : Pack → Word → TxIdRec
  | .layout l, w => { id := getField w l.evId 11, rtr := getBit w l.evRtr }
  | .other n, w => (Config.packFns n).decTxe0 w

/-- TX-event element word 1 as the controller writes it; `junk` supplies the other bits (R117). -/
def packTxe1 : Pack → TxeCtlRec → Word → Word
  | .layout l, r, junk =>
    withJunk (putField r.tag l.evTag ||| putField r.dlc l.evDlc ||| putField r.ts l.evTs) (txeMask1 l) junk
  | .other n, r, junk => (Config.packFns n).encTxe1 r junk

/-- TX-event element word 1 as read (R117). -/
def unpackTxe1 : Pack → Word → TxeCtlRec
  | .layout l, w => { dlc := getField w l.evDlc 4, ts := getField w l.evTs 16, tag := getField w l.evTag 8 }
  | .other n, w => (Config.packFns n).decTxe1 w

/-- A TX-event element's record, words 0 and 1 together (R117). -/
structure TxeRec where
  id  : BitVec 11
  rtr : Bool
  dlc : BitVec 4
  ts  : BitVec 16
  tag : BitVec 8
  deriving DecidableEq, Repr

/-- `unpack_txe` (R117). -/
def unpackTxe (p : Pack) (v0 v1 : Word) : TxeRec where
  id := (unpackTxe0 p v0).id
  rtr := (unpackTxe0 p v0).rtr
  dlc := (unpackTxe1 p v1).dlc
  ts := (unpackTxe1 p v1).ts
  tag := (unpackTxe1 p v1).tag

/-- The TX slot id field of a message (`43_tx_engine.md` R276): bits 15:12 of the logical id are ignored (R94). -/
def txIdOf (m : TxMsg) : TxIdRec where
  id := idOf m.lid
  rtr := remoteOf m.lid

/-- The TX slot control word of a message in slot `put` (`43_tx_engine.md` R272 step `L6`, R276). -/
def txCtlOf (cfg : Cfg) (m : TxMsg) (put : Nat) : TxCtlRec where
  dlc := BitVec.ofNat 4 (min m.length 8)
  evt := cfg.rxOwnTx
  tag := if cfg.rxOwnTx then BitVec.ofNat 8 put else 0

/-- `msg_of(id, rtr, dlc, p0, p1, t)` (`44_rx_engine.md` R293). -/
def msgOf (id : BitVec 11) (rtr : Bool) (dlc : BitVec 4) (p0 p1 : Word) (t : Word) : RxMsg where
  lid := lidOf id rtr
  length := min dlc.toNat 8
  data := payloadOf p0 p1
  timestamp := t

/-! Admission (`30_encoding.md` R156, R157). -/

/-- The operations `CMD_IS` admits (R156). -/
def isAdmitted : Instr → Bool
  | .nop | .htx | .hrx | .htxe | .tsrec _ | .rpsr | .upderr => true
  | .init _ | .disable | .enable | .solve | .setspeed | .aclr | .aadd _ _ => false

/-- The operations admitted while `CSTATE.inst = 0` (R157). -/
def noInstAdmitted : Instr → Bool
  | .nop | .solve | .init _ => true
  | .disable | .enable | .setspeed | .aclr | .aadd _ _ | .htx | .hrx | .htxe | .tsrec _ | .rpsr | .upderr => false

/-- The first label of an operation (R161 (5)). -/
def firstLabel : Instr → Label
  | .nop => .nopS0
  | .init _ => .initS0
  | .disable => .disableS1
  | .enable => .enableS1
  | .solve => .solveS0
  | .setspeed => .setspeedS0
  | .aclr => .aclrS0
  | .aadd _ _ => .aaddS0
  | .htx => .htxS0
  | .hrx => .hrxL0
  | .tsrec _ => .tsrecS1
  | .rpsr => .rpsrS1
  | .upderr => .upderrS1
  | .htxe => .htxeS0

/-- The frame an accepted command starts with (R161 (5)). -/
def Frame.start (i : Instr) : Frame where
  op := i
  seq := firstLabel i
  loc := Locals.empty
  crit := false
  n := 0
  bp := false

end Sys2Proof.Machine
end

