-- ==== Sys2Proof/Machine/Flags.lean ====
section
/-! DEFINITION. Flag and status words: `CSTATE`, `STAT_c`, result codes, bus health, the last-error decode
(`10_state.md` R45, R46, `46_bus_health.md` R338, R341, `60_exceptions.md` R360). -/

namespace Sys2Proof.Machine

/-- `Health(warning, bus_off)` (R341): bus-off wins. -/
def healthOf (warning busOff : Bool) : Health :=
  if busOff then .busOff else if warning then .errorWarning else .errorActive

/-- The code of a health state in `CSTATE` bits 6:5 (R45). -/
def Health.code : Health → BitVec 2
  | .errorActive => 0
  | .errorWarning => 1
  | .busOff => 2

/-- The code of a result in `STAT_c.err` (R360). -/
def ResultCode.code : ResultCode → BitVec 4
  | .ok => 0
  | .badDev => 1
  | .noInst => 2
  | .illCmd => 3
  | .ctx => 4

/-- The word `CSTATE` reads as (R45). -/
def CState.word (c : CState) : Word :=
  0#16 ++ c.dev ++ 0#1 ++ c.health.code ++ BitVec.ofBool c.btFb ++ BitVec.ofBool c.busOff ++ BitVec.ofBool c.warning
    ++ BitVec.ofBool c.enabled ++ BitVec.ofBool c.inst

/-- The word `STAT_c` reads as (R46); `busy` says whether the port holds a frame. -/
def Stat.word (t : Stat) (busy : Bool) : Word :=
  t.n ++ 0#4 ++ t.err.code ++ 0#3 ++ BitVec.ofBool t.ovr ++ BitVec.ofBool t.bp ++ BitVec.ofBool t.ok
    ++ BitVec.ofBool t.done ++ BitVec.ofBool busy

/-- `cfg.LEC_MAP` on the 3-bit code (R338): 0 and 7 map to no counter. -/
def lecClass (cfg : Cfg) (lec : BitVec 3) : Option ErrClass :=
  match lec.toNat with
  | 1 => some cfg.lecMap[0]
  | 2 => some cfg.lecMap[1]
  | 3 => some cfg.lecMap[2]
  | 4 => some cfg.lecMap[3]
  | 5 => some cfg.lecMap[4]
  | 6 => some cfg.lecMap[5]
  | _ => none

/-- The counter of a class (R55). -/
def ErrCounters.get (e : ErrCounters) : ErrClass → Word
  | .stuff => e.stuff
  | .form => e.form
  | .ack => e.ack
  | .crc => e.crc
  | .bit0 => e.bit0
  | .bit1 => e.bit1

/-- The counter of a class counts one event, modulo 2^32 (R55, R337). -/
def ErrCounters.bump (e : ErrCounters) : ErrClass → ErrCounters
  | .stuff => { e with stuff := e.stuff + 1 }
  | .form => { e with form := e.form + 1 }
  | .ack => { e with ack := e.ack + 1 }
  | .crc => { e with crc := e.crc + 1 }
  | .bit0 => { e with bit0 := e.bit0 + 1 }
  | .bit1 => { e with bit1 := e.bit1 + 1 }

/-- The counters after a last-error code is decoded (R337). -/
def countLec (cfg : Cfg) (lec : BitVec 3) (e : ErrCounters) : ErrCounters :=
  match lecClass cfg lec with
  | some c => e.bump c
  | none => e

end Sys2Proof.Machine
end

