-- ==== Sys2Proof/Machine/Ops.lean ====
section
/-! DEFINITION. The shared operations: message RAM, register and frame accessors, which frame steps, completion and
`raise`, acceptance of a command word, the collaborators, free values, the reset input. -/

namespace Sys2Proof

/-- A memory: (address, byte) pairs, addresses strictly rising, none equal to what an unlisted address reads as. -/
abbrev Memory := List Host.Cell

/-- What a byte nothing has written reads as. R402 leaves it open: DESIGN CHOICE 0 (assumption log 7). -/
def Memory.unlisted : Byte := 0

/-- The canonical form from address `lo` on. -/
def Memory.wfFrom : Nat → Memory → Bool
  | _, [] => true
  | lo, (a, b) :: rest => decide (lo ≤ a) && b != Memory.unlisted && Memory.wfFrom (a + 1) rest

/-- The canonical form. -/
def Memory.wf (m : Memory) : Bool := Memory.wfFrom 0 m

/-- One byte read. -/
def Memory.load : Memory → Nat → Byte
  | [], _ => Memory.unlisted
  | (a, b) :: rest, k => if k = a then b else Memory.load rest k

/-- One byte written; the canonical form is kept. -/
def Memory.store : Memory → Nat → Byte → Memory
  | [], k, v => if v = Memory.unlisted then [] else [(k, v)]
  | (a, b) :: rest, k, v =>
    if k < a then (if v = Memory.unlisted then (a, b) :: rest else (k, v) :: (a, b) :: rest)
    else if k = a then (if v = Memory.unlisted then rest else (k, v) :: rest)
    else (a, b) :: Memory.store rest k v

/-- A word read at byte offset `a`, little-endian (`20_memory.md` R101). -/
def Memory.loadWord (m : Memory) (a : Nat) : Word :=
  Machine.wordOf (m.load a) (m.load (a + 1)) (m.load (a + 2)) (m.load (a + 3))

/-- A word written at byte offset `a`, little-endian (R101). -/
def Memory.storeWord (m : Memory) (a : Nat) (v : Word) : Memory :=
  (((m.store a (Machine.byteOf v 0)).store (a + 1) (Machine.byteOf v 1)).store (a + 2) (Machine.byteOf v 2)).store
    (a + 3) (Machine.byteOf v 3)

namespace Machine

/-! Message RAM (`00_scope.md` R17). No access can fault (`20_memory.md` R118, assumption log 12). -/

/-- `MemRead(addr, 4)`. -/
def memRead (s : State) (a : Nat) : Word := Memory.loadWord s.mem a

/-- `MemWrite(addr, 4, v)`. -/
def memWrite (s : State) (a : Nat) (v : Word) : State := { s with mem := Memory.storeWord s.mem a v }

/-- The byte of the message RAM at an offset: what a statement about memory reads. -/
def State.byteAt (s : State) (a : Nat) : Byte := Memory.load s.mem a

/-! Accessors. -/

/-- The port of a context. -/
def State.port (s : State) : Ctx → Port
  | .fg => s.fgPort
  | .is => s.isPort

/-- Replace the port of a context. -/
def State.setPort (s : State) (c : Ctx) (p : Port) : State :=
  match c with
  | .fg => { s with fgPort := p }
  | .is => { s with isPort := p }

/-- `frame[c]` (`10_state.md` R40). -/
def State.frame (s : State) (c : Ctx) : Option Frame := (s.port c).frame

/-- Replace `frame[c]`. -/
def State.setFrame (s : State) (c : Ctx) (f : Option Frame) : State :=
  s.setPort c { s.port c with frame := f }

/-- Replace the host-visible registers. -/
def State.setRegs (s : State) (r : HostRegs) : State := { s with regs := r }

/-- Replace `CSTATE`. -/
def State.setCState (s : State) (c : CState) : State := s.setRegs { s.regs with cstate := c }

/-- The controller with a device index. -/
def State.ctrlAt (s : State) (d : BitVec 8) : Ctrl := s.ctrls[d.toNat]'d.isLt

/-- Replace the controller with a device index. -/
def State.setCtrlAt (s : State) (d : BitVec 8) (c : Ctrl) : State :=
  { s with ctrls := s.ctrls.set d.toNat c d.isLt }

/-- The controller the device port reaches: the one `CSTATE.dev` selects (R45). -/
def State.ctrl (s : State) : Ctrl := s.ctrlAt s.regs.cstate.dev

/-- Replace the controller the device port reaches. -/
def State.setCtrl (s : State) (c : Ctrl) : State := s.setCtrlAt s.regs.cstate.dev c

/-- The output `crit_req` (`60_exceptions.md` R372). -/
def State.critReq (s : State) : Bool :=
  (match s.fgPort.frame with | some f => f.crit | none => false)
    || (match s.isPort.frame with | some f => f.crit | none => false)

/-! Which frame steps (`10_state.md` R42). -/

/-- `next_ctx`; `none` when the sequencer is idle. -/
def State.nextCtx (s : State) : Option Ctx :=
  match s.isPort.frame, s.fgPort.frame with
  | some _, none => some .is
  | some _, some f => if f.crit then some .fg else some .is
  | none, some _ => some .fg
  | none, none => none

/-- The context that steps, with its frame. -/
def State.current (s : State) : Option (Ctx × Frame) :=
  match s.nextCtx with
  | some c => (s.frame c).map (fun f => (c, f))
  | none => none

/-- Run a step of the current frame. -/
def withFrame (s : State) (k : Ctx → Frame → Result) : Result :=
  match s.current with
  | some (c, f) => k c f
  | none => .fault .noFrame

/-! Control transfer and the end of a command. -/

/-- `seq[c] <- L`, with the rest of the frame as given (`00_scope.md` R16, `10_state.md` R41). -/
def goto (c : Ctx) (f : Frame) (l : Label) (s : State) : State := s.setFrame c (some { f with seq := l })

/-- The end of a frame with a result code (`30_encoding.md` R162): `busy`, `done`, `ok`, `err`, `bp`, `n`; `ovr` stays. -/
def finish (c : Ctx) (f : Frame) (e : ResultCode) (s : State) : State :=
  s.setPort c
    { cmd := (s.port c).cmd
      stat :=
        { done := true
          ok := decide (e = .ok)
          bp := f.bp
          ovr := (s.port c).stat.ovr
          err := e
          n := BitVec.ofNat 16 f.n }
      frame := none }

/-- Normal completion (R162): the return of a command. -/
def complete (c : Ctx) (f : Frame) (s : State) : State := finish c f .ok s

/-- `raise E` in a running command (`60_exceptions.md` R361): what this block has for taking an exception. -/
def raiseIn (c : Ctx) (f : Frame) (e : ResultCode) (s : State) : State := finish c f e s

/-! Submission and acceptance (`30_encoding.md` R160, R161). -/

/-- R161 (1): `CMD_c <- w` and the bits of `STAT_c` cleared. -/
def latchCommand (c : Ctx) (w : Word) (s : State) : State :=
  s.setPort c { s.port c with cmd := w, stat := Stat.clear }

/-- `raise E` at acceptance: completes at once by R162 without a frame. -/
def refuseCommand (c : Ctx) (e : ResultCode) (s : State) : State :=
  s.setPort c { s.port c with stat := { Stat.clear with done := true, err := e } }

/-- R161 (5): the frame of an admitted command. -/
def startCommand (c : Ctx) (i : Instr) (s : State) : State := s.setFrame c (some (Frame.start i))

/-- The acceptance step on an idle port (R161), its checks in order. -/
def accept (c : Ctx) (w : Word) (s : State) : State :=
  let s := latchCommand c w s
  match decode w with
  | .error _ => refuseCommand c .illCmd s
  | .ok i =>
    if c = .is ∧ isAdmitted i = false then refuseCommand c .ctx s
    else if s.regs.cstate.inst = false ∧ noInstAdmitted i = false then refuseCommand c .noInst s
    else startCommand c i s

/-- A host write of `w` to `CMD_c` (R160). -/
def submit (c : Ctx) (w : Word) (s : State) : State :=
  if (s.frame c).isSome then
    s.setPort c { s.port c with stat := { (s.port c).stat with ovr := true } }
  else accept c w s

/-- The state in which the sequencer's next step is the first step of `i`, its word `w` latched on the FG port: no IS
frame, no other agent's move before it. -/
def loadCommand (i : Instr) (w : Word) (s : State) : State :=
  startCommand .fg i (latchCommand .fg w { s with isPort := { s.isPort with frame := none }, sched := [] })

/-- `loadCommand` on what the decoder reads; a word it rejects is refused as the acceptance step refuses it. -/
def loadWord (i : Option Instr) (w : Word) (s : State) : State :=
  match i with
  | some i => loadCommand i w s
  | none =>
    refuseCommand .fg .illCmd
      (latchCommand .fg w
        { s with isPort := { s.isPort with frame := none }, fgPort := { s.fgPort with frame := none }, sched := [] })

/-! Free values (assumption log 9). -/

/-- One more free value drawn. -/
def State.drawn (s : State) : State := { s with free := s.free + 1 }

/-! Collaborators (`00_scope.md` R17). -/

/-- `HasPendingOutgoing()`. -/
def hasPending (s : State) : Bool := !s.source.isEmpty

/-- `TakeOutgoing()`. On an empty source, which R17 excludes by contract, the message is free (assumption log 10). -/
def takeOutgoing (s : State) : TxMsg × State :=
  match s.source with
  | m :: rest => (m, { s with source := rest })
  | [] => (Config.freeMessage s.free, s.drawn)

/-- `OnReceived(m)`. -/
def onReceived (m : RxMsg) (s : State) : State := { s with consumer := s.consumer ++ [m] }

/-! The reset input (`70_reset_and_hazards.md` R400 to R402). -/

/-- A pulse of the reset input: CANDRV's state takes the values of R401; nothing else changes. -/
def pulseReset (s : State) : State :=
  { s with regs := HostRegs.reset s.cfg, fgPort := Port.reset, isPort := Port.reset }

end Machine

end Sys2Proof
end

