-- ==== Sys2Proof/Machine/Controller.lean ====
section
/-! DEFINITION. The device port (`DevRead`, `DevWrite`, `10_state.md` R59 to R78) and the controller behind it, as the
contract of `20_memory.md` R130 to R142 describes it. The controller works with its own base and count registers
(assumption log 15); after INIT they hold the values of `cfg`. -/

namespace Sys2Proof.Machine

/-! Register reads. -/

/-- `DevRead(RXS)` (R133): no side effect. -/
def readRxs (s : State) : RxsView where
  fill := s.ctrl.rxFill
  get := s.ctrl.rxGet

/-- `DevRead(TXS)` (R68, R136): no side effect. -/
def readTxs (s : State) : TxsView where
  put := s.ctrl.txPut
  full := s.ctrl.txReq.length == s.ctrl.txc.count

/-- `DevRead(TXES)` (R138): no side effect. -/
def readTxes (s : State) : RxsView where
  fill := s.ctrl.txeFill
  get := s.ctrl.txeGet

/-- `DevRead(TSCNT)` (R78): no side effect. -/
def readTscnt (s : State) : BitVec 16 := s.ctrl.tscnt

/-- `DevRead(MODE)` (R60): no side effect; no operation uses it. -/
def readMode (s : State) : ModeReg := s.ctrl.mode

/-- A controller whose `PSR` has been read (R73, R106): `lec` becomes 7 after the read. -/
def Ctrl.psrTaken (k : Ctrl) : Ctrl := { k with psr := { k.psr with lec := 7 } }

/-- A controller whose `ECR` has been read (R74, R106): `cel` becomes 0 after the read on a variant that clears on read. -/
def Ctrl.ecrTaken (cfg : Cfg) (k : Ctrl) : Ctrl :=
  if cfg.ecrClearOnRead then { k with ecr := { k.ecr with cel := 0 } } else k

/-- `DevRead(PSR)` (R73, R106). -/
def readPsr (s : State) : PsrReg × State := (s.ctrl.psr, s.setCtrl s.ctrl.psrTaken)

/-- `DevRead(ECR)` (R74, R106). -/
def readEcr (s : State) : EcrReg × State :=
  (s.ctrl.ecr, s.setCtrl (Ctrl.ecrTaken s.cfg s.ctrl))

/-! Register writes. -/

/-- A `DevWrite`, by register. -/
inductive DevWrite where
  | mode (r : ModeReg)
  | btr (r : BtrReg)
  | gfc (r : GfcReg)
  | fltc (r : ZoneReg)
  | rxc (r : RxcReg)
  | txc (r : ZoneReg)
  | txec (r : ZoneReg)
  | ie (r : IrqSet)
  | ils (r : IrqSet)
  | ir (r : IrqSet)
  | rxa (index : Nat)
  | txea (index : Nat)
  | txrq (bits : Word)
  deriving DecidableEq, Repr

/-- A `MODE` write takes effect at its step; with `init = 0`, `cce` reads as 0 (R131), and with `init = 1` a frame being
received is lost (`70_reset_and_hazards.md` R423). -/
def Ctrl.setMode (k : Ctrl) (r : ModeReg) : Ctrl :=
  { k with
    mode := { init := r.init, cce := r.cce && r.init, fd := r.fd }
    rxHeld := if r.init then [] else k.rxHeld }

/-- The controller accepts configuration writes (R132). -/
def Ctrl.configMode (k : Ctrl) : Bool := k.mode.init && k.mode.cce

/-- The first free slot of the TX ring from `tx_put` on, round the ring. -/
def Ctrl.freeSlot (k : Ctrl) : Nat :=
  (((List.range k.txc.count).map (fun j => (k.txPut + j) % k.txc.count)).find? (fun i => !k.txReq.contains i)).getD k.txPut

/-- `tx_put` names the next free slot whenever the ring is not full (R68). DEDUCED (assumption log 25): where a request dropped
out of order (U5) has made `tx_put` of R136 name a requested slot of such a ring, the controller moves it on to the next free
one; a `tx_put` that names a free slot stays, so that only a doorbell moves it (R136). -/
def Ctrl.settled (k : Ctrl) : Ctrl :=
  if k.txReq.length < k.txc.count ∧ k.txPut ∈ k.txReq then { k with txPut := k.freeSlot } else k

/-- The effect of an accepted `RXC` write: the ring is empty with its cursor 0 (R132). DESIGN CHOICE (assumption log 9): a
frame accepted and not yet counted is no part of the ring and stays. In configuration mode there is none (R131, R423); after a
write outside it that takes its value (U4) such a frame is stored in the emptied ring at the new base. -/
def Ctrl.setRxc (k : Ctrl) (r : RxcReg) : Ctrl := { k with rxc := r, rxGet := 0, rxFill := 0 }

/-- The effect of an accepted `TXC` write (R132). -/
def Ctrl.setTxc (k : Ctrl) (r : ZoneReg) : Ctrl := { k with txc := r, txPut := 0, txReq := [], txSent := [] }

/-- The effect of an accepted `TXEC` write (R132). -/
def Ctrl.setTxec (k : Ctrl) (r : ZoneReg) : Ctrl := { k with txec := r, txeGet := 0, txeFill := 0 }

/-- `IR` is write-one-to-clear (R77). -/
def IrqSet.clear (pending bits : IrqSet) : IrqSet where
  rxNew := pending.rxNew && !bits.rxNew
  txDone := pending.txDone && !bits.txDone

/-- A write to a configuration register (R132). Outside configuration mode the register keeps the old or takes the new
value, free (U4, assumption log 9). DESIGN CHOICE (log 9): a write to `RXC`, `TXC` or `TXEC` there empties its ring exactly
when the register takes the new value, since U4 and R415 speak of the value only. -/
def writeConfig (s : State) (new : Ctrl) : State :=
  if s.ctrl.configMode then s.setCtrl new
  else if Config.freeBool s.free then (s.setCtrl new).drawn
  else s.drawn

/-- `RXA <- {index}` (R134). Outside the contract the cursors are free within their field ranges (U8, assumption log 9). -/
def ackRx (s : State) (index : Nat) : State :=
  let k := s.ctrl
  if index = k.rxGet ∧ 0 < k.rxFill then
    s.setCtrl { k with rxGet := (k.rxGet + 1) % k.rxc.count, rxFill := k.rxFill - 1 }
  else
    (s.setCtrl
      { k with
        rxGet := Config.freeNat s.free % max 1 k.rxc.count
        rxFill := Config.freeNat (s.free + 1) % (k.rxc.count + 1) }).drawn.drawn

/-- `TXEA <- {index}` (R138): the acknowledge rule of R134 on the TX-event ring. -/
def ackTxe (s : State) (index : Nat) : State :=
  let k := s.ctrl
  if index = k.txeGet ∧ 0 < k.txeFill then
    s.setCtrl { k with txeGet := (k.txeGet + 1) % k.txec.count, txeFill := k.txeFill - 1 }
  else
    (s.setCtrl
      { k with
        txeGet := Config.freeNat s.free % max 1 k.txec.count
        txeFill := Config.freeNat (s.free + 1) % (k.txec.count + 1) }).drawn.drawn

/-- The doorbell is within the contract (R136): exactly bit `tx_put`, the ring not full, the slot not requested already. -/
def Ctrl.doorbellOk (k : Ctrl) (bits : Word) : Bool :=
  bits == 1#32 <<< k.txPut && decide (k.txPut < k.txc.count) && k.txReq.length != k.txc.count && !k.txReq.contains k.txPut

/-- `TXRQ <- bits` (R136). Writing 0 to every bit has no effect (R69). Outside the contract the request set and the put
index are free within their ranges (U9, assumption log 9), and a slot keeps its transmission only while it is requested. -/
def ringDoorbell (s : State) (bits : Word) : State :=
  let k := s.ctrl
  if bits = 0 then s
  else if k.doorbellOk bits then
    s.setCtrl (Ctrl.settled { k with txReq := k.txReq ++ [k.txPut], txPut := (k.txPut + 1) % k.txc.count })
  else
    let req := ((Config.freeRequests s.free).filter (fun i => decide (i < k.txc.count))).dedup
    (s.setCtrl (Ctrl.settled
      { k with
        txReq := req
        txSent := k.txSent.filter (fun p => req.contains p.1)
        txPut := Config.freeNat s.free % max 1 k.txc.count })).drawn

/-- `DevWrite(REG, rec)` (`00_scope.md` R17, `20_memory.md` R107). -/
def devWrite (w : DevWrite) (s : State) : State :=
  let k := s.ctrl
  match w with
  | .mode r => s.setCtrl (k.setMode r)
  | .btr r => writeConfig s { k with btr := r }
  | .gfc r => writeConfig s { k with gfc := r }
  | .fltc r => writeConfig s { k with fltc := r }
  | .rxc r => writeConfig s (k.setRxc r)
  | .txc r => writeConfig s (k.setTxc r)
  | .txec r => writeConfig s (k.setTxec r)
  | .ie r => s.setCtrl { k with ie := r }
  | .ils r => s.setCtrl { k with ils := r }
  | .ir r => s.setCtrl { k with ir := IrqSet.clear k.ir r }
  | .rxa i => ackRx s i
  | .txea i => ackTxe s i
  | .txrq b => ringDoorbell s b

/-! The controller's interrupt lines (R141, `60_exceptions.md` R366): an output, read by nothing in CANDRV. -/

/-- The line (`false` is line 0) is driven: a pending, enabled condition that `ILS` routes to it. -/
def Ctrl.irqLine (k : Ctrl) (line : Bool) : Bool :=
  (k.ir.rxNew && k.ie.rxNew && k.ils.rxNew == line) || (k.ir.txDone && k.ie.txDone && k.ils.txDone == line)

/-! Reception (R133, R135, R142). -/

/-- A filter word admits an identifier: `MASK_ID`, `TO_RX` and `(rid & mask) = (id & mask)` (R142). -/
def filterMatches (p : Pack) (w : Word) (rid : BitVec 11) : Bool :=
  let r := unpackFlt p w
  r.mode == .maskId && r.action == .toRx && rid &&& r.mask == r.id &&& r.mask

/-- Some filter word the controller scans admits the identifier (R142). Which one is unobservable (C4, U1). -/
def anyFilterMatches (cfg : Cfg) (mem : Memory) (k : Ctrl) (rid : BitVec 11) : Bool :=
  (List.range k.fltc.count).any
    (fun n => filterMatches cfg.pack (Memory.loadWord mem (k.fltc.base.toNat + n * cfg.fltSz)) rid)

/-- The frame is accepted (R142). A standard data frame that a filter admits is; a remote frame under `rej_remote` and a
frame no filter admits under `rej_nomatch` are not; otherwise the controller chooses (assumption log 11). -/
def accepts (cfg : Cfg) (mem : Memory) (k : Ctrl) (f : BusFrame) : Bool :=
  let hit := !f.xtd && anyFilterMatches cfg mem k f.id
  if f.rtr && k.gfc.rejRemote then false
  else if hit && !f.rtr then true
  else if !hit && k.gfc.rejNomatch then false
  else f.openAccept

/-- Word `w` of the RX slot of an accepted frame with its stamp (R115, R133). -/
def rxSlotWord (p : Pack) (f : BusFrame) (ts : BitVec 16) (w : Nat) : Word :=
  match w with
  | 0 => packRx0 p { id := f.id, rtr := f.rtr, xtd := f.xtd } f.junk0
  | 1 => packRx1 p { dlc := f.dlc, ts := ts } f.junk1
  | 2 => payloadLow f.data
  | _ => payloadHigh f.data

/-- The slot an accepted frame goes to: the next free one (R133); with the ring full, slot `rx_get` in overwrite mode and
none otherwise (R135). A ring of no slots has none. -/
def Ctrl.rxTarget (k : Ctrl) : Option Nat :=
  if k.rxc.count = 0 then none
  else if k.rxFill < k.rxc.count then some ((k.rxGet + k.rxFill) % k.rxc.count)
  else if k.rxc.overwrite then some k.rxGet
  else none

/-- The byte offset of word `w` of slot `i` of the RX ring a controller is programmed with. -/
def Ctrl.rxSlotAddr (cfg : Cfg) (k : Ctrl) (i w : Nat) : Nat := k.rxc.base.toNat + i * cfg.rxSz + 4 * w

/-- The controller stores word `w` of slot `i`. -/
def storeRxWord (cfg : Cfg) (mem : Memory) (k : Ctrl) (f : BusFrame) (ts : BitVec 16) (i w : Nat) : Memory :=
  mem.storeWord (k.rxSlotAddr cfg i w) (rxSlotWord cfg.pack f ts w)

/-- The controller stores the four words of a slot. -/
def storeRxSlot (cfg : Cfg) (mem : Memory) (k : Ctrl) (f : BusFrame) (ts : BitVec 16) (i : Nat) : Memory :=
  storeRxWord cfg (storeRxWord cfg (storeRxWord cfg (storeRxWord cfg mem k f ts i 0) k f ts i 1) k f ts i 2) k f ts i 3

/-- `PSR.lec` after a frame is transferred without error (R139; which frames those are is DEDUCED, assumption log 25). -/
def Ctrl.transferred (k : Ctrl) : Ctrl := { k with psr := { k.psr with lec := 0 } }

/-- The ring after a frame is stored: R133 below the full mark, R135 at it. -/
def Ctrl.afterArrival (k : Ctrl) (f : BusFrame) : Ctrl :=
  if k.rxFill < k.rxc.count then
    { k with rxFill := k.rxFill + 1, ir := { k.ir with rxNew := true } }
  else
    { k with
      rxGet := (k.rxGet + 1) % k.rxc.count
      ir := { k.ir with rxNew := k.ir.rxNew || f.openIrq } }

/-- A frame is received (R131, R142). DESIGN CHOICE (assumption log 29): the match of the frame against the whole filter zone is
part of this one step, so it sees one snapshot of the zone, where R88 and U6 leave open what a match concurrent with writes of
several words sees. An accepted frame is held with the bit-time counter of this moment until the controller
counts it (R133); where the ring is full in blocking mode it is discarded at once (R135). DEDUCED (assumption log 25):
accepted or not, it is a frame transferred without error (R139). -/
def Ctrl.receive (cfg : Cfg) (mem : Memory) (k : Ctrl) (f : BusFrame) : Ctrl :=
  if k.mode.init then k
  else if accepts cfg mem k f && k.rxTarget.isSome then { k.transferred with rxHeld := k.rxHeld ++ [(f, k.tscnt)] }
  else k.transferred

/-- The controller stores one word of the slot of the oldest accepted frame (R131, R105, U17). -/
def receiveWord (s : State) (d : BitVec 8) (w : Fin 4) : State :=
  let k := s.ctrlAt d
  match k.mode.init, k.rxHeld, k.rxTarget with
  | false, (f, ts) :: _, some i => { s with mem := storeRxWord s.cfg s.mem k f ts i w }
  | _, _, _ => s

/-- The oldest accepted frame is stored and counted (R131, R133), or overwrites the oldest slot, or is discarded (R135).
DEDUCED (assumption log 25): which of the three is decided by the ring as it is now. -/
def deliver (s : State) (d : BitVec 8) : State :=
  let k := s.ctrlAt d
  match k.mode.init, k.rxHeld with
  | false, (f, ts) :: rest =>
    match k.rxTarget with
    | some i =>
      { s.setCtrlAt d { k.afterArrival f with rxHeld := rest } with mem := storeRxSlot s.cfg s.mem k f ts i }
    | none => s.setCtrlAt d { k with rxHeld := rest }
  | _, _ => s

/-! Transmission (R137, R138). -/

/-- The byte offset of word `w` of slot `i` of the TX ring a controller is programmed with. -/
def Ctrl.txSlotAddr (cfg : Cfg) (k : Ctrl) (i w : Nat) : Nat := k.txc.base.toNat + i * cfg.txSz + 4 * w

/-- The byte offset of word `w` of element `i` of the TX-event ring a controller is programmed with. -/
def Ctrl.txeAddr (cfg : Cfg) (k : Ctrl) (i w : Nat) : Nat := k.txec.base.toNat + i * cfg.txeSz + 4 * w

/-- The bit-time counter at the transmission of a slot (R137, R117): as `txSend` sampled it, or now where the completing step
is also the transmission. -/
def Ctrl.sentAt (k : Ctrl) (slot : Nat) : BitVec 16 := (k.txSent.lookup slot).getD k.tscnt

/-- The transmissions without those of a slot. -/
def Ctrl.sentBut (k : Ctrl) (slot : Nat) : List (Nat × BitVec 16) := k.txSent.filter (fun p => p.1 ≠ slot)

/-- A requested slot is transmitted now, once every older request has been (R131, R137; DEDUCED, assumption log 25). Its completion
comes later, or never. -/
def Ctrl.send (k : Ctrl) (slot : Nat) : Ctrl :=
  let older := k.txReq.takeWhile (fun r => r ≠ slot)
  if !k.mode.init && k.txReq.contains slot && older.all (fun r => (k.txSent.lookup r).isSome) then
    { k with txSent := k.sentBut slot ++ [(slot, k.tscnt)] }
  else k

/-- The TX-event element `i` of a transmitted slot as the controller stores it (R137): copied from the slot, `ts` the bit-time
counter at its transmission; the last two words supply the bits that carry no field. -/
def storeEvent (cfg : Cfg) (mem : Memory) (k : Ctrl) (slot i : Nat) (junk0 junk1 : Word) : Memory :=
  let h := unpackTxId cfg.pack (Memory.loadWord mem (k.txSlotAddr cfg slot 0))
  let ctl := unpackTxCtl cfg.pack (Memory.loadWord mem (k.txSlotAddr cfg slot 1))
  (mem.storeWord (k.txeAddr cfg i 0) (packTxe0 cfg.pack h junk0)).storeWord (k.txeAddr cfg i 1)
    (packTxe1 cfg.pack { dlc := ctl.dlc, ts := k.sentAt slot, tag := ctl.tag } junk1)

/-- The slot asked for an event and the TX-event ring is not full (R137, R138). -/
def storesEvent (cfg : Cfg) (mem : Memory) (k : Ctrl) (slot : Nat) : Bool :=
  (unpackTxCtl cfg.pack (Memory.loadWord mem (k.txSlotAddr cfg slot 1))).evt && decide (k.txeFill < k.txec.count)

/-- Controller `d` completes the oldest requested transmission (R131, R137). DESIGN CHOICE (assumption log 25):
`tx_put` stays where it names a free slot (R68). DEDUCED (assumption log 25): it is a frame
transferred without error (R139). -/
def transmit (s : State) (d : BitVec 8) (junk0 junk1 : Word) : State :=
  let k := s.ctrlAt d
  match k.mode.init, k.txReq with
  | false, slot :: rest =>
    let sent : Ctrl := Ctrl.settled
      { k.transferred with txReq := rest, txSent := k.sentBut slot, ir := { k.ir with txDone := true } }
    if storesEvent s.cfg s.mem k slot then
      { s.setCtrlAt d { sent with txeFill := k.txeFill + 1 } with
        mem := storeEvent s.cfg s.mem k slot ((k.txeGet + k.txeFill) % k.txec.count) junk0 junk1 }
    else s.setCtrlAt d sent
  | _, _ => s

/-! Events that touch the controller's own state only (R139 to R142, U5). -/

/-- `cel` counts up and sticks at its maximum (R140). -/
def celNext (v : BitVec 8) : BitVec 8 := if v = BitVec.allOnes 8 then v else v + 1

/-- The controller after an event that stores nothing in the message RAM. A dropped request leaves `tx_put` alone, since U5
speaks of `tx_req` only (DESIGN CHOICE, assumption log 25), where it names a free slot (R68). -/
def Ctrl.react (cfg : Cfg) (mem : Memory) (k : Ctrl) : CtrlEvent → Ctrl
  | .arrive f => k.receive cfg mem f
  | .txSend slot => k.send slot
  | .lec code => if code = 7 then k else { k with psr := { k.psr with lec := code } }
  | .status warning busOff => { k with psr := { k.psr with warning := warning, busOff := busOff } }
  | .counters recv tec => { k with ecr := { k.ecr with recv := recv, tec := tec } }
  | .celUp => { k with ecr := { k.ecr with cel := celNext k.ecr.cel } }
  | .celDraw v => { k with ecr := { k.ecr with cel := v } }
  | .tick => { k with tscnt := k.tscnt + 1 }
  | .stoppedCount v => if k.mode.init then { k with tscnt := v } else k
  | .dropRequest slot =>
    if k.mode.init then Ctrl.settled { k with txReq := k.txReq.erase slot, txSent := k.sentBut slot } else k
  | .psrRead => k.psrTaken
  | .ecrRead => Ctrl.ecrTaken cfg k
  | .outsideMode r => k.setMode r
  | .outsideIr r => { k with ir := IrqSet.clear k.ir r }
  | .rxWord _ | .rxStore | .txDone _ _ => k

/-- A step of controller `d` on its own. A device index that names no controller (R12 `NUM_DEV`) does nothing. -/
def controllerStep (s : State) (d : BitVec 8) (e : CtrlEvent) : State :=
  if d.toNat < s.cfg.numDev then
    match e with
    | .rxWord w => receiveWord s d w
    | .rxStore => deliver s d
    | .txDone j0 j1 => transmit s d j0 j1
    | .arrive _ | .txSend _ | .lec _ | .status _ _ | .counters _ _ | .celUp | .celDraw _ | .tick | .stoppedCount _
    | .dropRequest _ | .psrRead | .ecrRead | .outsideMode _ | .outsideIr _ =>
      s.setCtrlAt d ((s.ctrlAt d).react s.cfg s.mem e)
  else s

end Sys2Proof.Machine
end

