-- ==== Sys2Proof/Machine/BusHealth.lean ====
section
/-! DEFINITION. RPSR, UPDERR and the sub-procedures `ReadPsr`, `ReadEcr` (`46_bus_health.md`). -/

namespace Sys2Proof.Machine

/-- `Psr.1`: the read, the view and at most one counter ("All of it is one step", R337). -/
def psr1 (s : State) : State :=
  let (p, s) := readPsr s
  s.setRegs
    { s.regs with
      cstate :=
        { s.regs.cstate with warning := p.warning, busOff := p.busOff, health := healthOf p.warning p.busOff }
      errs := countLec s.cfg p.lec s.regs.errs }

/-- `Ecr.1` (R343, "one step"): `REC`, `TEC`, and `ERR_LOG` accumulating or mirroring `cel`, "consuming the value in the same
step" (`10_state.md` R87). -/
def ecr1 (s : State) : State :=
  let (e, s) := readEcr s
  s.setRegs
    { s.regs with
      recv := e.recv
      tec := e.tec
      errLog := if s.cfg.ecrClearOnRead then s.regs.errLog + e.cel.setWidth 32 else e.cel.setWidth 32 }

/-- RPSR (R336). -/
def execRpsr (s : State) : Result :=
  withFrame s fun c f =>
    match f.seq with
    | .rpsrS1 => .next (complete c f (psr1 s))
    | _ => .fault .foreignLabel

/-- UPDERR (R344). -/
def execUpderr (s : State) : Result :=
  withFrame s fun c f =>
    match f.seq with
    | .upderrS1 => .next (goto c f .upderrS2 (ecr1 s))
    | .upderrS2 => .next (complete c f (psr1 s))
    | _ => .fault .foreignLabel

end Sys2Proof.Machine
end

