-- ==== Sys2Proof/Machine/Solver.lean ====
section
/-! DEFINITION. The bit-timing solver (`41_bit_timing.md` R220 to R229), in unbounded integers (R221), and its use on the
registers (R226, R231). -/

namespace Sys2Proof.Machine

/-- A solver result before it is stored: the four values and the fallback flag. -/
structure BitTiming where
  presc : Nat
  seg1  : Nat
  seg2  : Nat
  sjw   : Nat
  fb    : Bool
  deriving DecidableEq, Repr

/-- `sp = min(P_SP, 1000)` (R222). -/
def condSp (sp : Nat) : Nat := min sp 1000

/-- `rj = min(max(P_RJ, RJ_MIN), RJ_MAX)` (R222). -/
def condRj (cfg : Cfg) (rj : Nat) : Nat := min (max rj cfg.rjMin) cfg.rjMax

/-- `S`: the synchronisation quantum counted outside `seg1` (R222). -/
def syncQuanta (cfg : Cfg) : Nat := if cfg.syncInSeg1 then 0 else 1

/-- `b(p)`: quanta per bit (R223); 0 when `p * rate = 0`. -/
def quantaPerBit (clock rate p : Nat) : Nat := if p * rate = 0 then 0 else clock / (p * rate)

/-- `seg2` of the candidate (R224); `sp` is conditioned. -/
def candSeg2 (sp b : Nat) : Nat := max 1 (b * (1000 - sp) / 1000)

/-- `sjw` of the candidate (R224); `rj` is conditioned. -/
def candSjw (rj b : Nat) : Nat := max 1 (b * rj / 1000)

/-- `seg1` of the candidate (R224), which may be zero or negative. -/
def candSeg1 (cfg : Cfg) (sp b : Nat) : Int := (b : Int) - syncQuanta cfg - candSeg2 sp b

/-- The candidate fits (R225). -/
def fits (cfg : Cfg) (sp rj b : Nat) : Bool :=
  decide (1 ≤ candSeg1 cfg sp b) && decide (candSeg1 cfg sp b ≤ cfg.seg1Max)
    && decide (candSeg2 sp b ≤ cfg.seg2Max) && decide (candSjw rj b ≤ cfg.sjwMax)

/-- The result of a candidate that fits (R226): `sjw` reduced to `min(sjw, seg1, seg2)`. -/
def fitted (cfg : Cfg) (sp rj p b : Nat) : BitTiming where
  presc := p
  seg1 := (candSeg1 cfg sp b).toNat
  seg2 := candSeg2 sp b
  sjw := min (candSjw rj b) (min (candSeg1 cfg sp b).toNat (candSeg2 sp b))
  fb := false

/-- `Fallback(p, b)` (R228): seven eighths before the sample point, one eighth after it, then the clamps. -/
def fallback (cfg : Cfg) (p b : Nat) : BitTiming :=
  let seg2 := max 1 (b / 8)
  let sjw := max 1 (b / 8)
  let seg1 := (max 1 ((b : Int) - syncQuanta cfg - seg2)).toNat
  let seg1 := min seg1 cfg.seg1Max
  let seg2 := min seg2 cfg.seg2Max
  { presc := p, seg1 := seg1, seg2 := seg2, sjw := min (min sjw cfg.sjwMax) (min seg1 seg2), fb := true }

/-- The search loop (R226, R227) from prescaler `p`, at most `fuel` more prescalers after it. The candidate is tested
first, the stop condition second. -/
def search (cfg : Cfg) (clock rate sp rj : Nat) : Nat → Nat → BitTiming
  | fuel, p =>
    let b := quantaPerBit clock rate p
    if fits cfg sp rj b then fitted cfg sp rj p b
    else if b < cfg.fbThreshold ∨ p = cfg.prescMax then fallback cfg p b
    else
      match fuel with
      | 0 => fallback cfg p b
      | fuel + 1 => search cfg clock rate sp rj fuel (p + 1)

/-- `Solve` as a pure function (R220, R226). At most `PRESC_MAX` prescalers are tried (R229). -/
def solve (cfg : Cfg) (clock rate sp rj : Nat) : BitTiming :=
  search cfg clock rate (condSp sp) (condRj cfg rj) (cfg.prescMax - 1) 1

/-- The solver run on the parameter registers (R220). -/
def solveRegs (cfg : Cfg) (r : HostRegs) : BitTiming :=
  solve cfg r.pClock.toNat r.pRate.toNat r.pSp.toNat r.pRj.toNat

/-- The end of `Solve` (R226): the four `BT_*` registers, truncated to u32 (R15), and `CSTATE.bt_fb`. -/
def storeTiming (t : BitTiming) (r : HostRegs) : HostRegs :=
  { r with
    btPresc := BitVec.ofNat 32 t.presc
    btSeg1 := BitVec.ofNat 32 t.seg1
    btSeg2 := BitVec.ofNat 32 t.seg2
    btSjw := BitVec.ofNat 32 t.sjw
    cstate := { r.cstate with btFb := t.fb } }

/-- `Solve` (R226): reads the four `P_*` registers and writes its results, in one step. -/
def runSolve (s : State) : State := s.setRegs (storeTiming (solveRegs s.cfg s.regs) s.regs)

/-- `CPB` (`10_state.md` R33): host ticks per CAN bit, 0 when `P_RATE` is 0. -/
def cpbOf (cfg : Cfg) (rate : Word) : Word :=
  if rate = 0 then 0 else BitVec.ofNat 32 (cfg.hostclkHz / rate.toNat)

/-- `WBT.1` (R231). -/
def wbt1 (s : State) : State :=
  let s := runSolve s
  s.setRegs { s.regs with cpb := cpbOf s.cfg s.regs.pRate }

/-- The record `WBT.2` writes (R231). -/
def btrOf (r : HostRegs) : BtrReg where
  presc := r.btPresc
  seg1 := r.btSeg1
  seg2 := r.btSeg2
  sjw := r.btSjw

/-- `WBT.2` (R231). -/
def wbt2 (s : State) : State := devWrite (.btr (btrOf s.regs)) s

end Sys2Proof.Machine
end

