-- ==== Sys2Proof/Machine/Lifecycle.lean ====
section
/-! DEFINITION. NOP, INIT, DISABLE, ENABLE and the sub-procedures `Disable`, `Enable` (`40_lifecycle.md`). -/

namespace Sys2Proof.Machine

/-- `Dis.1` (R195). -/
def dis1 (s : State) : State := devWrite (.mode { init := true, cce := false, fd := false }) s

/-- The call of `Dis.2` (R195). The clearing of `enabled` after it is `clearEnabled`, in the step of the next call
(`00_scope.md` R17). -/
def dis2 (s : State) : State := devWrite (.mode { init := true, cce := true, fd := false }) s

/-- What `Dis.2` computes after its call (R195). -/
def clearEnabled (s : State) : State := s.setCState { s.regs.cstate with enabled := false }

/-- `En.1` (R198). -/
def en1 (s : State) : State :=
  let s := devWrite (.mode { init := false, cce := false, fd := false }) s
  s.setCState { s.regs.cstate with enabled := true }

/-- `ZF.k` (`42_filters.md` R251): filter word `k` becomes 0. -/
def zeroFilterWord (k : Nat) (s : State) : State := memWrite s (s.cfg.fltWord k) 0

/-- The registers after the device check of `INIT.S0` (R192, R193): ControllerState at its initial values, the instance
bound to `dev`; `bt_fb`, the parameters, `BT_*`, `TS_ABS` and `CPB` stay. -/
def initRegs (dev : BitVec 8) (r : HostRegs) : HostRegs :=
  { r with
    cstate :=
      { r.cstate with
        inst := true, dev := dev, enabled := false, warning := false, busOff := false, health := .errorActive }
    fcount := 0
    errs := ErrCounters.zero
    recv := 0
    tec := 0
    errLog := 0
    rxCount := 0 }

/-- NOP (R190): one `Internal` step. -/
def execNop (s : State) : Result :=
  withFrame s fun c f =>
    match f.seq with
    | .nopS0 => .next (complete c f s)
    | _ => .fault .foreignLabel

/-- INIT (R192, R194). `enabled` is cleared for `Dis.2` in the step of `S3`, the call after it (`00_scope.md` R17). -/
def execInit (dev : BitVec 8) (s : State) : Result :=
  withFrame s fun c f =>
    match f.seq with
    | .initS0 =>
      if s.cfg.numDev ≤ dev.toNat then .next (raiseIn c f .badDev s)
      else .next (goto c f .initS1 (s.setRegs (initRegs dev s.regs)))
    | .initS1 => .next (goto c f .initS2 (dis1 s))
    | .initS2 => .next (goto c f .initS3 (dis2 s))
    | .initS3 => .next (goto c f .initS4 (wbt1 (clearEnabled s)))
    | .initS4 => .next (goto c f .initS5 (wbt2 s))
    | .initS5 => .next (goto c f .initS6 (devWrite (.gfc { rejNomatch := true, rejRemote := true }) s))
    | .initS6 =>
      .next (goto c f (.initS7 0) (devWrite (.fltc { base := BitVec.ofNat 16 s.cfg.offFlt, count := s.cfg.maxf }) s))
    | .initS7 k =>
      .next (goto c f (if k + 1 < s.cfg.maxf then .initS7 (k + 1) else .initS8) (zeroFilterWord k s))
    | .initS8 =>
      .next (goto c f .initS9
        (devWrite
          (.rxc { base := BitVec.ofNat 16 s.cfg.offRx, count := s.cfg.rxd, overwrite := s.cfg.rxOverwrite }) s))
    | .initS9 =>
      .next (goto c f .initS10 (devWrite (.txc { base := BitVec.ofNat 16 s.cfg.offTx, count := s.cfg.txd }) s))
    | .initS10 =>
      .next (goto c f .initS11 (devWrite (.txec { base := BitVec.ofNat 16 s.cfg.offTxe, count := s.cfg.txed }) s))
    | .initS11 => .next (goto c f .initS12 (devWrite (.ie s.cfg.ieInit) s))
    | .initS12 => .next (goto c f .initS13 (devWrite (.ils s.cfg.ilsInit) s))
    | .initS13 => .next (complete c f (en1 s))
    | _ => .fault .foreignLabel

/-- DISABLE (R196). `Dis.2` is its last call, so the completion step clears `enabled` (`00_scope.md` R17). -/
def execDisable (s : State) : Result :=
  withFrame s fun c f =>
    match f.seq with
    | .disableS1 => .next (goto c f .disableS2 (dis1 s))
    | .disableS2 => .next (complete c f (clearEnabled (dis2 s)))
    | _ => .fault .foreignLabel

/-- ENABLE (R197). -/
def execEnable (s : State) : Result :=
  withFrame s fun c f =>
    match f.seq with
    | .enableS1 => .next (complete c f (en1 s))
    | _ => .fault .foreignLabel

end Sys2Proof.Machine
end

