-- ==== Sys2Proof/Machine/Filters.lean ====
section
/-! DEFINITION. ACLR and AADD (`42_filters.md`). -/

namespace Sys2Proof.Machine

/-- ACLR (R252): the `MODE` steps only when it started enabled; a skipped step is no step. `enabled`
is cleared for `Dis.2` in the step of `S3.0`, the call after it (`00_scope.md` R17). -/
def execAclr (s : State) : Result :=
  withFrame s fun c f =>
    match f.seq with
    | .aclrS0 =>
      .next (goto c { f with loc := { f.loc with was := s.regs.cstate.enabled } }
        (if s.regs.cstate.enabled then .aclrS1 else .aclrS3 0) s)
    | .aclrS1 => .next (goto c f .aclrS2 (dis1 s))
    | .aclrS2 => .next (goto c f (.aclrS3 0) (dis2 s))
    | .aclrS3 k =>
      let t := if k = 0 ∧ f.loc.was = true then clearEnabled s else s
      .next (goto c f (if k + 1 < s.cfg.maxf then .aclrS3 (k + 1) else .aclrS4) (zeroFilterWord k t))
    | .aclrS4 =>
      let t := s.setRegs { s.regs with fcount := 0 }
      .next (if f.loc.was then goto c f .aclrS5 t else complete c f t)
    | .aclrS5 => .next (complete c f (en1 s))
    | _ => .fault .foreignLabel

/-- The word AADD writes (R254). -/
def aaddWord (cfg : Cfg) (id mask : BitVec 11) : Word := packFlt cfg.pack (aaddRec id mask)

/-- AADD (R254): silently nothing when the table is full (R255). -/
def execAadd (id mask : BitVec 11) (s : State) : Result :=
  withFrame s fun c f =>
    match f.seq with
    | .aaddS0 => .next (if s.cfg.maxf ≤ s.regs.fcount.toNat then complete c f s else goto c f .aaddS1 s)
    | .aaddS1 =>
      let t := memWrite s (s.cfg.fltWord s.regs.fcount.toNat) (aaddWord s.cfg id mask)
      .next (complete c f (t.setRegs { t.regs with fcount := t.regs.fcount + 1 }))
    | _ => .fault .foreignLabel

end Sys2Proof.Machine
end

