-- ==== Sys2Proof/Machine/HostPort.lean ====
section
/-! DEFINITION. The host port (`10_state.md` R52, `20_memory.md` R104) and the moves of the agents other than the
sequencer (R21, R121). -/

namespace Sys2Proof.Machine

/-- The value of the host register at an offset (R52); an offset not listed reads 0. Reads have no side effect
(`60_exceptions.md` R384). -/
def hostReg (s : State) (off : Nat) : Word :=
  match off with
  | 0x00 => s.fgPort.cmd
  | 0x04 => s.fgPort.stat.word s.fgPort.frame.isSome
  | 0x08 => s.isPort.cmd
  | 0x0C => s.isPort.stat.word s.isPort.frame.isSome
  | 0x10 => s.regs.pClock
  | 0x14 => s.regs.pRate
  | 0x18 => s.regs.pSp.setWidth 32
  | 0x1C => s.regs.pRj.setWidth 32
  | 0x20 => s.regs.btPresc
  | 0x24 => s.regs.btSeg1
  | 0x28 => s.regs.btSeg2
  | 0x2C => s.regs.btSjw
  | 0x30 => s.regs.cstate.word
  | 0x34 => s.regs.fcount
  | 0x38 => s.regs.errs.stuff
  | 0x3C => s.regs.errs.form
  | 0x40 => s.regs.errs.ack
  | 0x44 => s.regs.errs.crc
  | 0x48 => s.regs.errs.bit0
  | 0x4C => s.regs.errs.bit1
  | 0x50 => s.regs.recv.setWidth 32
  | 0x54 => s.regs.tec.setWidth 32
  | 0x58 => s.regs.errLog
  | 0x5C => s.regs.rxCount
  | 0x60 => s.regs.tsAbs
  | 0x64 => s.regs.cpb
  | 0x68 => BitVec.ofNat 32 s.cfg.offFlt
  | 0x6C => BitVec.ofNat 32 s.cfg.offRx
  | 0x70 => BitVec.ofNat 32 s.cfg.offTx
  | 0x74 => BitVec.ofNat 32 s.cfg.offTxe
  | _ => 0

/-- A host access is an aligned 32-bit one (R104). -/
def hostAligned (off bytes : Nat) : Bool := bytes == 4 && off % 4 == 0

/-- A host read `bytes` bytes wide: 0 unless it is an aligned 32-bit one (R104). -/
def hostRead (s : State) (off bytes : Nat) : Word := if hostAligned off bytes then hostReg s off else 0

/-- A host write of a parameter or command register (R52); every other offset ignores it (R34, decision D38). -/
def hostWriteReg (s : State) (off : Nat) (v : Word) : State :=
  match off with
  | 0x00 => submit .fg v s
  | 0x08 => submit .is v s
  | 0x10 => s.setRegs { s.regs with pClock := v }
  | 0x14 => s.setRegs { s.regs with pRate := v }
  | 0x18 => s.setRegs { s.regs with pSp := v.setWidth 16 }
  | 0x1C => s.setRegs { s.regs with pRj := v.setWidth 16 }
  | _ => s

/-- A host write `bytes` bytes wide (R104). -/
def hostWrite (s : State) (off bytes : Nat) (v : Word) : State :=
  if hostAligned off bytes then hostWriteReg s off v else s

/-- The move of an agent other than the sequencer (`00_scope.md` R21). -/
def agentMove (t : Turn) (s : State) : State :=
  match t with
  | .seq => s
  | .hostWrite off bytes v => hostWrite s off bytes v
  | .ctrl d e => controllerStep s d e
  | .source q => { s with source := q }
  | .clock ticks => { s with clock := s.clock + BitVec.ofNat 32 ticks }
  | .reset => pulseReset s

/-- Whether the next move is the sequencer's, and the state once that move is taken off `sched`. -/
def nextMove (s : State) : Turn × State :=
  match s.sched with
  | [] => (.seq, s)
  | t :: rest => (t, { s with sched := rest })

end Sys2Proof.Machine
end

