-- ==== Sys2Proof/Machine/Timestamp.lean ====
section
/-! DEFINITION. TSREC and the sub-procedure `Reconcile` (`45_timestamp.md`). -/

namespace Sys2Proof.Machine

/-- The absolute timestamp of a clean bracket (R322): `t1 - CPB * ((now16 - stored) mod 2^16)`, modulo 2^32. -/
def absoluteTime (cpb t1 : Word) (now16 stored : BitVec 16) : Word := t1 - cpb * (now16 - stored).setWidth 32

/-- The bracket is dirty (R322): "exceeds" is strict. -/
def dirtyBracket (cfg : Cfg) (t0 t1 : Word) : Bool := decide (cfg.tsBracketMax < (t1 - t0).toNat)

/-- `Rc.1` (R322): the first host-clock sample. -/
def rc1 (f : Frame) (s : State) : Frame := { f with loc := { f.loc with t0 := s.clock } }

/-- `Rc.2` (R322): the controller's counter. -/
def rc2 (f : Frame) (s : State) : Frame := { f with loc := { f.loc with now16 := readTscnt s } }

/-- `Rc.3` (R322): the second host-clock sample; a dirty bracket goes back to `retry` (no limit, R323), a clean one goes
on as `on` says. -/
def rc3 (c : Ctx) (f : Frame) (retry : Label) (on : Frame → State → State) (s : State) : State :=
  let f := { f with loc := { f.loc with t1 := s.clock } }
  if dirtyBracket s.cfg f.loc.t0 f.loc.t1 then goto c f retry s else on f s

/-- What a clean `Rc.3` computes after its call (R322): `TS_ABS`. It belongs to the step of the next call, or to the
completion step where there is none (`00_scope.md` R17). -/
def storeTimestamp (f : Frame) (stored : BitVec 16) (s : State) : State :=
  s.setRegs { s.regs with tsAbs := absoluteTime s.regs.cpb f.loc.t1 f.loc.now16 stored }

/-- TSREC (R324). -/
def execTsrec (ts : BitVec 16) (s : State) : Result :=
  withFrame s fun c f =>
    match f.seq with
    | .tsrecS1 => .next (goto c (rc1 f s) .tsrecS2 s)
    | .tsrecS2 => .next (goto c (rc2 f s) .tsrecS3 s)
    | .tsrecS3 => .next (rc3 c f .tsrecS1 (fun f s => complete c f (storeTimestamp f ts s)) s)
    | _ => .fault .foreignLabel

end Sys2Proof.Machine
end

