-- ==== Sys2Proof/Machine/Receive.lean ====
section
/-! DEFINITION. HRX, HTXE and the sub-procedure `DrainTxEvents` (`44_rx_engine.md`). -/

namespace Sys2Proof.Machine

/-- The header of the RX slot a frame holds in `w0`, `w1` (`r` of R292). -/
def Frame.rxHead (f : Frame) (cfg : Cfg) : RxHead := unpackRx cfg.pack f.loc.w0 f.loc.w1

/-- The event record a frame holds in `v0`, `v1` (`ev` of R298). -/
def Frame.txEvent (f : Frame) (cfg : Cfg) : TxeRec := unpackTxe cfg.pack f.loc.v0 f.loc.v1

/-- The frame with one more message counted: what R292 `L8` and R298 `TE.L8` compute after their call, in the step of the
acknowledge after it (`00_scope.md` R17). -/
def Frame.counted (f : Frame) : Frame := { f with n := f.n + 1 }

/-- The zero payload of an event whose `tag` is no slot index (R299 e), set in the step of `TE.L5`, the call after the two
skipped ones (`00_scope.md` R17). -/
def Frame.payloadOrZero (f : Frame) (cfg : Cfg) : Frame :=
  if cfg.txd ≤ (f.txEvent cfg).tag.toNat then { f with loc := { f.loc with p0 := 0, p1 := 0 } } else f

/-- One step of `DrainTxEvents` (R298); its return completes the operation. A `tag` that is no slot index skips `TE.L3`
and `TE.L4` (R299 e). -/
def drainStep (c : Ctx) (f : Frame) (s : State) : Result :=
  match f.seq with
  | .teL0 =>
    let v := readTxes s
    .next (if v.fill = 0 then complete c f s
      else goto c { f with loc := { f.loc with eget := v.get } } .teL1 s)
  | .teL1 => .next (goto c { f with loc := { f.loc with v0 := memRead s (s.cfg.txeWord f.loc.eget 0) } } .teL2 s)
  | .teL2 =>
    let f := { f with loc := { f.loc with v1 := memRead s (s.cfg.txeWord f.loc.eget 1) } }
    .next (goto c f (if s.cfg.txd ≤ (f.txEvent s.cfg).tag.toNat then .teL5 else .teL3) s)
  | .teL3 =>
    .next (goto c { f with loc := { f.loc with p0 := memRead s (s.cfg.txWord (f.txEvent s.cfg).tag.toNat 2) } } .teL4 s)
  | .teL4 =>
    .next (goto c { f with loc := { f.loc with p1 := memRead s (s.cfg.txWord (f.txEvent s.cfg).tag.toNat 3) } } .teL5 s)
  | .teL5 => .next (goto c (rc1 (f.payloadOrZero s.cfg) s) .teL6 s)
  | .teL6 => .next (goto c (rc2 f s) .teL7 s)
  | .teL7 => .next (rc3 c f .teL5 (fun f s => goto c f .teL8 s) s)
  | .teL8 =>
    let ev := f.txEvent s.cfg
    let t := storeTimestamp f ev.ts s
    .next (goto c f .teL9 (onReceived (msgOf ev.id ev.rtr ev.dlc f.loc.p0 f.loc.p1 t.regs.tsAbs) t))
  | .teL9 => .next (goto c f.counted .teL0 (devWrite (.txea f.loc.eget) s))
  | _ => .fault .foreignLabel

/-- The end of the RX loop (R292 `E0`, `E1`) without the `IR` write: the TX-event drain, or completion. -/
def afterEmpty (c : Ctx) (f : Frame) (s : State) : State :=
  if s.cfg.rxOwnTx then goto c f .teL0 s else complete c f s

/-- HRX (R292). `TS_ABS` is stored in the step of `L8`, the call after `Rc.3` (`00_scope.md` R17, R294). -/
def execHrx (s : State) : Result :=
  withFrame s fun c f =>
    match f.seq with
    | .hrxL0 =>
      let v := readRxs s
      .next (if v.fill = 0 then (if s.cfg.rxIrqAck then goto c f .hrxE0 s else afterEmpty c f s)
        else goto c { f with loc := { f.loc with get := v.get } } .hrxL1 s)
    | .hrxL1 => .next (goto c { f with loc := { f.loc with w0 := memRead s (s.cfg.rxWord f.loc.get 0) } } .hrxL2 s)
    | .hrxL2 => .next (goto c { f with loc := { f.loc with w1 := memRead s (s.cfg.rxWord f.loc.get 1) } } .hrxL3 s)
    | .hrxL3 => .next (goto c { f with loc := { f.loc with w2 := memRead s (s.cfg.rxWord f.loc.get 2) } } .hrxL4 s)
    | .hrxL4 => .next (goto c { f with loc := { f.loc with w3 := memRead s (s.cfg.rxWord f.loc.get 3) } } .hrxL5 s)
    | .hrxL5 => .next (goto c (rc1 f s) .hrxL6 s)
    | .hrxL6 => .next (goto c (rc2 f s) .hrxL7 s)
    | .hrxL7 => .next (rc3 c f .hrxL5 (fun f s => goto c f .hrxL8 s) s)
    | .hrxL8 =>
      let r := f.rxHead s.cfg
      let t := storeTimestamp f r.ts s
      let t := t.setRegs { t.regs with rxCount := t.regs.rxCount + 1 }
      .next (goto c f .hrxL9 (onReceived (msgOf r.id r.rtr r.dlc f.loc.w2 f.loc.w3 t.regs.tsAbs) t))
    | .hrxL9 => .next (goto c f.counted .hrxL0 (devWrite (.rxa f.loc.get) s))
    | .hrxE0 => .next (afterEmpty c f (devWrite (.ir { rxNew := true, txDone := false }) s))
    | .teL0 | .teL1 | .teL2 | .teL3 | .teL4 | .teL5 | .teL6 | .teL7 | .teL8 | .teL9 => drainStep c f s
    | _ => .fault .foreignLabel

/-- HTXE (R300): without `RX_OWN_TX` one `Internal` step; with it, `S0` is no step and the first is `TE.L0`. -/
def execHtxe (s : State) : Result :=
  withFrame s fun c f =>
    match f.seq with
    | .htxeS0 => if s.cfg.rxOwnTx then drainStep c { f with seq := .teL0 } s else .next (complete c f s)
    | .teL0 | .teL1 | .teL2 | .teL3 | .teL4 | .teL5 | .teL6 | .teL7 | .teL8 | .teL9 => drainStep c f s
    | _ => .fault .foreignLabel

end Sys2Proof.Machine
end

