-- ==== Sys2Proof/Machine/Timing.lean ====
section
/-! DEFINITION. SOLVE and SETSPEED (`41_bit_timing.md` R226, R230). -/

namespace Sys2Proof.Machine

/-- SOLVE (R226): one `Internal` step, no device access, `CPB` untouched. -/
def execSolve (s : State) : Result :=
  withFrame s fun c f =>
    match f.seq with
    | .solveS0 => .next (complete c f (runSolve s))
    | _ => .fault .foreignLabel

/-- SETSPEED (R230). `enabled` is cleared for `Dis.2` in the step of `S3`, the call after it (`00_scope.md` R17). -/
def execSetspeed (s : State) : Result :=
  withFrame s fun c f =>
    match f.seq with
    | .setspeedS0 => .next (goto c { f with loc := { f.loc with was := s.regs.cstate.enabled } } .setspeedS1 s)
    | .setspeedS1 => .next (goto c f .setspeedS2 (dis1 s))
    | .setspeedS2 => .next (goto c f .setspeedS3 (dis2 s))
    | .setspeedS3 => .next (goto c f .setspeedS4 (wbt1 (clearEnabled s)))
    | .setspeedS4 => .next (goto c f .setspeedS5 (wbt2 s))
    | .setspeedS5 => .next (complete c f (if f.loc.was then en1 s else s))
    | _ => .fault .foreignLabel

end Sys2Proof.Machine
end

