-- ==== Sys2Proof/Machine/Transmit.lean ====
section
/-! DEFINITION. HTX (`43_tx_engine.md`). -/

namespace Sys2Proof.Machine

/-- HTX (R272). The critical section is the steps `L1` to `L9` or `X1` (R274). `frame.bp <- 1` after the call of `L2` and
`frame.n` after that of `L8` belong to the steps of `X1` and `L9`, the calls after them (`00_scope.md` R17). -/
def execHtx (s : State) : Result :=
  withFrame s fun c f =>
    match f.seq with
    | .htxS0 => .next (goto c f .htxL0 (ecr1 s))
    | .htxL0 => .next (if hasPending s then goto c f .htxL1 s else complete c f s)
    | .htxL1 => .next (goto c { f with crit := true } .htxL2 s)
    | .htxL2 =>
      let v := readTxs s
      let f := { f with loc := { f.loc with put := v.put } }
      .next (if v.full then goto c f .htxX1 s else goto c f .htxL3 s)
    | .htxL3 =>
      let (m, t) := takeOutgoing s
      .next (goto c { f with loc := { f.loc with m := m } } .htxL4 t)
    | .htxL4 => .next (goto c f .htxL5 (memWrite s (s.cfg.txWord f.loc.put 2) (payloadLow f.loc.m.data)))
    | .htxL5 => .next (goto c f .htxL6 (memWrite s (s.cfg.txWord f.loc.put 3) (payloadHigh f.loc.m.data)))
    | .htxL6 =>
      .next (goto c f .htxL7
        (memWrite s (s.cfg.txWord f.loc.put 1) (packTxCtl s.cfg.pack (txCtlOf s.cfg f.loc.m f.loc.put))))
    | .htxL7 =>
      .next (goto c f .htxL8 (memWrite s (s.cfg.txWord f.loc.put 0) (packTxId s.cfg.pack (txIdOf f.loc.m))))
    | .htxL8 => .next (goto c f .htxL9 (devWrite (.txrq (1#32 <<< f.loc.put)) s))
    | .htxL9 => .next (goto c { f with crit := false, n := f.n + 1 } .htxL0 s)
    | .htxX1 => .next (complete c { f with crit := false, bp := true } s)
    | _ => .fault .foreignLabel

end Sys2Proof.Machine
end

