-- ==== Sys2Proof/Machine/Dispatch.lean ====
section
/-! DEFINITION. One arm per instruction: `exec i s` is one step of the current frame, which runs `i` (assumption log 4). -/

namespace Sys2Proof.Machine

def exec (i : Instr) (s : State) : Host.Outcome State Fault Refusal :=
  match i with
  | .nop => Sys2Proof.Machine.execNop s
  | .init dev => Sys2Proof.Machine.execInit dev s
  | .disable => Sys2Proof.Machine.execDisable s
  | .enable => Sys2Proof.Machine.execEnable s
  | .solve => Sys2Proof.Machine.execSolve s
  | .setspeed => Sys2Proof.Machine.execSetspeed s
  | .aclr => Sys2Proof.Machine.execAclr s
  | .aadd id mask => Sys2Proof.Machine.execAadd id mask s
  | .htx => Sys2Proof.Machine.execHtx s
  | .hrx => Sys2Proof.Machine.execHrx s
  | .tsrec ts => Sys2Proof.Machine.execTsrec ts s
  | .rpsr => Sys2Proof.Machine.execRpsr s
  | .upderr => Sys2Proof.Machine.execUpderr s
  | .htxe => Sys2Proof.Machine.execHtxe s

end Sys2Proof.Machine
end

