-- ==== Sys2Proof/Machine/Step.lean ====
section
/-! DEFINITION. One step of the whole system (`20_memory.md` R120): one move of one agent. -/

namespace Sys2Proof.Machine

/-- A step of the sequencer (`10_state.md` R42): the current frame's operation; idle, it has no step (assumption log 5). -/
def sequencerStep (s : State) : Result :=
  match s.current with
  | some (_, f) => exec f.op s
  | none => .next s

/-- One step: under a valid configuration (`00_scope.md` R13) the next move in `sched`, the sequencer's when none is
listed. -/
def step (s : State) : Host.Outcome State Fault Refusal :=
  if s.cfg.valid then
    match nextMove s with
    | (.seq, t) => sequencerStep t
    | (m, t) => .next (agentMove m t)
  else .refused .invalidConfig

/-- The state in which the very next step is the first step of the instruction with the bits `w` (assumption log 4). -/
def State.withFetchWord (s : State) (nbits w : Nat) : State :=
  loadWord (decodeTableWord nbits w) (BitVec.ofNat 32 w) s

end Sys2Proof.Machine
end

