-- ==== Sys2Proof/Machine/DevPack.lean ====
section
/-! DEFINITION. `cfg.PACK` on the device registers (`00_scope.md` R12, `20_memory.md` R113, `93_implementation_defined.md`
U20): the byte offset and the word behind each record. The device port works on records (`10_state.md` R59), so no step
depends on this file. Under a bit layout the bits are the reference's; a field written "v-1" there holds the value minus
one. -/

namespace Sys2Proof.Machine

/-- The offset of a register in a list of offsets. -/
def offsetIn (o : DevOffsets) : DevReg → Nat
  | .mode => o.mode
  | .btr => o.btr
  | .gfc => o.gfc
  | .fltc => o.fltc
  | .rxc => o.rxc
  | .rxs => o.rxs
  | .rxa => o.rxa
  | .txc => o.txc
  | .txs => o.txs
  | .txrq => o.txrq
  | .txec => o.txec
  | .txes => o.txes
  | .txea => o.txea
  | .psr => o.psr
  | .ecr => o.ecr
  | .ie => o.ie
  | .ils => o.ils
  | .ir => o.ir
  | .tscnt => o.tscnt

/-- The byte offset of a device register (R113: "captured in `cfg`"). -/
def devOffset : Pack → DevReg → Nat
  | .layout l, r => offsetIn l.offsets r
  | .other n, r => (Config.packFns n).offset r

/-- `GFC`: `rej_remote` in 1:0, `rej_nomatch` as 0b10 in 5:4 and in 3:2. -/
def gfcWord (r : GfcReg) : Word := (if r.rejRemote then 0x3 else 0) ||| (if r.rejNomatch then 0x28 else 0)

/-- A base field: bits 15:2 of the byte offset, in place. -/
def baseField (base : BitVec 16) : Word := putField (base.extractLsb' 2 14) 2

/-- The byte offset in a base field. -/
def baseOf (w : Word) : BitVec 16 := getField w 2 14 ++ 0#2

/-- A field that holds the value minus one. -/
def putMinusOne (v : Word) (lo n : Nat) : Word := putField ((v - 1).setWidth n) lo

/-- A value from a field that holds it minus one. -/
def getPlusOne (w : Word) (lo n : Nat) : Word := (getField w lo n).setWidth 32 + 1

/-- A number in a field. -/
def putNat (v lo n : Nat) : Word := putField (BitVec.ofNat n v) lo

/-- The number in a field. -/
def getNat (w : Word) (lo n : Nat) : Nat := (getField w lo n).toNat

/-- One bit per interrupt condition: `rx_new` bit 0, `tx_done` bit 9. -/
def irqWord (r : IrqSet) : Word := putBit r.rxNew 0 ||| putBit r.txDone 9

/-- The conditions in a word. -/
def irqOf (w : Word) : IrqSet where
  rxNew := getBit w 0
  txDone := getBit w 9

/-- The reference word of a device record (U20). DESIGN CHOICE (assumption log 2): bit 9 of `MODE`, the bit-rate switch, is
written equal to `fd`; U20 says only that it is "also written 0", which covers `fd` = 0, the one value CANDRV writes. -/
def referenceWord : DevRec → Word
  | .mode r => putBit r.init 0 ||| putBit r.cce 1 ||| putBit r.fd 8 ||| putBit r.fd 9
  | .btr r => putMinusOne r.sjw 25 7 ||| putMinusOne r.presc 16 9 ||| putMinusOne r.seg1 8 8 ||| putMinusOne r.seg2 0 7
  | .gfc r => gfcWord r
  | .fltc r => baseField r.base ||| putNat r.count 16 8
  | .rxc r => baseField r.base ||| putNat r.count 16 7 ||| putBit r.overwrite 31
  | .rxs r => putNat r.fill 0 7 ||| putNat r.get 8 6
  | .rxa i => putNat i 0 6
  | .txc r => baseField r.base ||| putNat r.count 24 6
  | .txs r => putNat r.put 16 5 ||| putBit r.full 21
  | .txrq bits => bits
  | .txec r => baseField r.base ||| putNat r.count 16 6
  | .txes r => putNat r.fill 0 6 ||| putNat r.get 8 5
  | .txea i => putNat i 0 5
  | .psr r => putField r.lec 0 ||| putBit r.warning 6 ||| putBit r.busOff 7
  | .ecr r => putField r.tec 0 ||| putField r.recv 8 ||| putField r.cel 16
  | .ie r => irqWord r
  | .ils r => irqWord r
  | .ir r => irqWord r
  | .tscnt cnt => putField cnt 0

/-- The record of a register in a reference word (U20). -/
def referenceRecord (reg : DevReg) (w : Word) : DevRec :=
  match reg with
  | .mode => .mode { init := getBit w 0, cce := getBit w 1, fd := getBit w 8 }
  | .btr =>
    .btr { presc := getPlusOne w 16 9, seg1 := getPlusOne w 8 8, seg2 := getPlusOne w 0 7, sjw := getPlusOne w 25 7 }
  | .gfc => .gfc { rejNomatch := getBit w 5, rejRemote := getBit w 0 }
  | .fltc => .fltc { base := baseOf w, count := getNat w 16 8 }
  | .rxc => .rxc { base := baseOf w, count := getNat w 16 7, overwrite := getBit w 31 }
  | .rxs => .rxs { fill := getNat w 0 7, get := getNat w 8 6 }
  | .rxa => .rxa (getNat w 0 6)
  | .txc => .txc { base := baseOf w, count := getNat w 24 6 }
  | .txs => .txs { put := getNat w 16 5, full := getBit w 21 }
  | .txrq => .txrq w
  | .txec => .txec { base := baseOf w, count := getNat w 16 6 }
  | .txes => .txes { fill := getNat w 0 6, get := getNat w 8 5 }
  | .txea => .txea (getNat w 0 5)
  | .psr => .psr { lec := getField w 0 3, warning := getBit w 6, busOff := getBit w 7 }
  | .ecr => .ecr { recv := getField w 8 7, tec := getField w 0 8, cel := getField w 16 8 }
  | .ie => .ie (irqOf w)
  | .ils => .ils (irqOf w)
  | .ir => .ir (irqOf w)
  | .tscnt => .tscnt (getField w 0 16)

/-- `pack` of a device record (R12, U20). -/
def packDev : Pack → DevRec → Word
  | .layout _, r => referenceWord r
  | .other n, r => (Config.packFns n).encDev r

/-- `unpack` of a device register's word (R12, U20). -/
def unpackDev : Pack → DevReg → Word → DevRec
  | .layout _, reg, w => referenceRecord reg w
  | .other n, reg, w => (Config.packFns n).decDev reg w

/-- The record a `DevWrite` writes. -/
def DevWrite.record : DevWrite → DevRec
  | .mode r => .mode r
  | .btr r => .btr r
  | .gfc r => .gfc r
  | .fltc r => .fltc r
  | .rxc r => .rxc r
  | .txc r => .txc r
  | .txec r => .txec r
  | .ie r => .ie r
  | .ils r => .ils r
  | .ir r => .ir r
  | .rxa i => .rxa i
  | .txea i => .txea i
  | .txrq bits => .txrq bits

/-- The byte offset a `DevWrite` goes to and the word it writes there, under the packing of the configuration. -/
def devWriteWord (cfg : Cfg) (w : DevWrite) : Nat × Word :=
  (devOffset cfg.pack w.record.reg, packDev cfg.pack w.record)

/-- The byte offset a `DevRead` of a register reads and the word there when the register holds the record. -/
def devReadWord (cfg : Cfg) (r : DevRec) : Nat × Word := (devOffset cfg.pack r.reg, packDev cfg.pack r)

end Sys2Proof.Machine
end

