-- ==== Sys2Proof/Safety.lean ====
section
/-! DEFINITION. What counts as a safe run, and the predicates the statements are made of: label ownership, the machine's
invariants, a programmed controller, undisturbed runs. -/

namespace Sys2Proof.Machine

/-! Labels (`10_state.md` R41). -/

/-- The labels of `DrainTxEvents` (`44_rx_engine.md` R298). -/
def Label.isDrain : Label → Bool
  | .teL0 | .teL1 | .teL2 | .teL3 | .teL4 | .teL5 | .teL6 | .teL7 | .teL8 | .teL9 => true
  | _ => false

/-- The labels an operation's own rule defines, those of its inlined sub-procedures among them (R41, R43). -/
def owns (i : Instr) (l : Label) : Bool :=
  match i with
  | .nop => l == .nopS0
  | .init _ =>
    match l with
    | .initS0 | .initS1 | .initS2 | .initS3 | .initS4 | .initS5 | .initS6 | .initS7 _ | .initS8 | .initS9 | .initS10
    | .initS11 | .initS12 | .initS13 => true
    | _ => false
  | .disable => l == .disableS1 || l == .disableS2
  | .enable => l == .enableS1
  | .solve => l == .solveS0
  | .setspeed =>
    match l with
    | .setspeedS0 | .setspeedS1 | .setspeedS2 | .setspeedS3 | .setspeedS4 | .setspeedS5 => true
    | _ => false
  | .aclr =>
    match l with
    | .aclrS0 | .aclrS1 | .aclrS2 | .aclrS3 _ | .aclrS4 | .aclrS5 => true
    | _ => false
  | .aadd _ _ => l == .aaddS0 || l == .aaddS1
  | .htx =>
    match l with
    | .htxS0 | .htxL0 | .htxL1 | .htxL2 | .htxL3 | .htxL4 | .htxL5 | .htxL6 | .htxL7 | .htxL8 | .htxL9 | .htxX1 => true
    | _ => false
  | .hrx =>
    match l with
    | .hrxL0 | .hrxL1 | .hrxL2 | .hrxL3 | .hrxL4 | .hrxL5 | .hrxL6 | .hrxL7 | .hrxL8 | .hrxL9 | .hrxE0 => true
    | l => l.isDrain
  | .tsrec _ => l == .tsrecS1 || l == .tsrecS2 || l == .tsrecS3
  | .rpsr => l == .rpsrS1
  | .upderr => l == .upderrS1 || l == .upderrS2
  | .htxe => l == .htxeS0 || l.isDrain

/-- The labels at which a frame is inside its critical section: after `CritEnter`, up to `CritLeave`
(`43_tx_engine.md` R274). -/
def Label.inCrit : Label → Bool
  | .htxL2 | .htxL3 | .htxL4 | .htxL5 | .htxL6 | .htxL7 | .htxL8 | .htxL9 | .htxX1 => true
  | _ => false

/-! Invariants. -/

/-- The invariant of CANDRV: what every step keeps, and from which no step stops. -/
structure State.Inv (s : State) : Prop where
  /-- The configuration is valid (`00_scope.md` R13). -/
  validCfg : s.cfg.valid = true
  /-- The memory is in canonical form. -/
  memory : Memory.wf s.mem = true
  /-- A frame's label is one of its operation (R41, R43). -/
  labels : ∀ c f, s.frame c = some f → owns f.op f.seq = true
  /-- The critical-section flag is set exactly inside the section (R125, R274, R372). -/
  crits : ∀ c f, s.frame c = some f → f.crit = f.seq.inCrit
  /-- An IS frame runs an operation `CMD_IS` admits (R156). -/
  isOps : ∀ f, s.frame .is = some f → isAdmitted f.op = true
  /-- `0 ≤ FCOUNT ≤ cfg.MAXF` always (R51). -/
  fcountMax : s.regs.fcount.toNat ≤ s.cfg.maxf
  /-- An AADD past its check has room (R254). -/
  aaddRoom : ∀ f, s.frame .fg = some f → f.seq = .aaddS1 → s.regs.fcount.toNat < s.cfg.maxf
  /-- An ACLR that takes the `MODE` steps of `Disable` started enabled (R252). -/
  aclrWas : ∀ f, s.frame .fg = some f → f.seq = .aclrS1 ∨ f.seq = .aclrS2 → f.loc.was = true
  /-- `health` is the function of `warning` and `bus_off` (R45, R341). -/
  healthView : s.regs.cstate.health = healthOf s.regs.cstate.warning s.regs.cstate.busOff
  /-- The instance is bound to an existing controller (R194). -/
  devBound : s.regs.cstate.dev.toNat < s.cfg.numDev

/-- A controller's cursors lie in the ranges of `20_memory.md` R133, R136, R138 for its own ring depths. -/
structure Ctrl.InRange (k : Ctrl) : Prop where
  rxFill : k.rxFill ≤ k.rxc.count
  rxGet : k.rxGet < max 1 k.rxc.count
  txReqNodup : k.txReq.Nodup
  txReqRange : ∀ i ∈ k.txReq, i < k.txc.count
  txPut : k.txPut < max 1 k.txc.count
  /-- With the ring not full, `put` is a free slot (`10_state.md` R68). -/
  txPutFree : k.txReq.length < k.txc.count → k.txPut ∉ k.txReq
  txeFill : k.txeFill ≤ k.txec.count
  txeGet : k.txeGet < max 1 k.txec.count

/-- Every controller's cursors are in range. -/
def State.CursorsInRange (s : State) : Prop := ∀ d : BitVec 8, (s.ctrlAt d).InRange

/-- The FG frame has made the `MODE` write of `Dis.1` and not yet taken the step that clears `enabled` for `Dis.2`
(`40_lifecycle.md` R195, `00_scope.md` R17), in any of the four operations that inline them. -/
def State.disabling (s : State) : Bool :=
  match s.fgPort.frame with
  | some f =>
    match f.seq with
    | .initS2 | .initS3 | .disableS2 | .setspeedS2 | .setspeedS3 | .aclrS2 => true
    | .aclrS3 0 => f.loc.was
    | _ => false
  | none => false

/-- `CSTATE.enabled = 1` only while the bound controller is out of initialisation mode, but for the steps from the first
`MODE` write of `Disable` to the one that clears `enabled` (`60_exceptions.md` R380). -/
def State.EnabledMeansOnBus (s : State) : Prop :=
  s.regs.cstate.enabled = true → s.disabling = false → s.ctrl.mode.init = false

/-! Situations. -/

/-- The current frame is `f`, in context `c`, at label `l`. -/
def State.At (s : State) (c : Ctx) (f : Frame) (l : Label) : Prop := s.current = some (c, f) ∧ f.seq = l

/-- No other agent moves and no IS frame is there; FG has just been given the operation `i`, under a valid
configuration. -/
structure State.Fresh (s : State) (i : Instr) : Prop where
  validCfg : s.cfg.valid = true
  quiet : s.sched = []
  noIs : s.isPort.frame = none
  started : s.fgPort.frame = some (Frame.start i)

/-- The bound controller's ring registers and filter registers hold what INIT writes (`40_lifecycle.md` R192). -/
structure Ctrl.Programmed (cfg : Cfg) (k : Ctrl) : Prop where
  fltc : k.fltc = { base := BitVec.ofNat 16 cfg.offFlt, count := cfg.maxf }
  rxc : k.rxc = { base := BitVec.ofNat 16 cfg.offRx, count := cfg.rxd, overwrite := cfg.rxOverwrite }
  txc : k.txc = { base := BitVec.ofNat 16 cfg.offTx, count := cfg.txd }
  txec : k.txec = { base := BitVec.ofNat 16 cfg.offTxe, count := cfg.txed }

/-- The four bytes from `a` on hold no part of the byte at `x`. -/
def outsideWord (a x : Nat) : Prop := x < a ∨ a + 4 ≤ x

/-- `STAT_c` after a completion (`30_encoding.md` R162): `n` counts modulo 2^16, `ovr` is as it was. -/
def doneStat (e : ResultCode) (n : Nat) (bp ovr : Bool) : Stat where
  done := true
  ok := decide (e = .ok)
  bp := bp
  ovr := ovr
  err := e
  n := BitVec.ofNat 16 n

/-- `s` with the frame `f` of context `c` ended with a result code (R162): the port's `CMD_c` and `ovr` stay, the rest of
`STAT_c` is written, the frame is gone. -/
def State.ended (s : State) (c : Ctx) (f : Frame) (e : ResultCode) : State :=
  s.setPort c { cmd := (s.port c).cmd, stat := doneStat e f.n f.bp (s.port c).stat.ovr, frame := none }

/-- `s` with the frame `f` of context `c` at label `l` (`10_state.md` R41): `CMD_c` and `STAT_c` stay. -/
def State.moved (s : State) (c : Ctx) (f : Frame) (l : Label) : State :=
  s.setPort c { s.port c with frame := some { f with seq := l } }

/-- The word of message RAM that a frame's next step stores to, and what it stores there; `none` at a label that stores
nothing (`42_filters.md` R251, R254, `43_tx_engine.md` R272). -/
def storeTarget (s : State) (f : Frame) : Option (Nat × Word) :=
  match f.op, f.seq with
  | .init _, .initS7 k => some (s.cfg.fltWord k, 0)
  | .aclr, .aclrS3 k => some (s.cfg.fltWord k, 0)
  | .aadd id mask, .aaddS1 => some (s.cfg.fltWord s.regs.fcount.toNat, aaddWord s.cfg id mask)
  | .htx, .htxL4 => some (s.cfg.txWord f.loc.put 2, payloadLow f.loc.m.data)
  | .htx, .htxL5 => some (s.cfg.txWord f.loc.put 3, payloadHigh f.loc.m.data)
  | .htx, .htxL6 => some (s.cfg.txWord f.loc.put 1, packTxCtl s.cfg.pack (txCtlOf s.cfg f.loc.m f.loc.put))
  | .htx, .htxL7 => some (s.cfg.txWord f.loc.put 0, packTxId s.cfg.pack (txIdOf f.loc.m))
  | _, _ => none

/-- The filter zone is all disabled entries (R251). -/
def State.zoneCleared (s : State) : Prop := ∀ k < s.cfg.maxf, memRead s (s.cfg.fltWord k) = 0

/-- The message in RX slot `i` as HRX hands it over when neither the host clock nor the bit-time counter moves
(`44_rx_engine.md` R292, R293, `45_timestamp.md` R322). -/
def State.slotMessage (s : State) (i : Nat) : RxMsg :=
  let h := unpackRx s.cfg.pack (memRead s (s.cfg.rxWord i 0)) (memRead s (s.cfg.rxWord i 1))
  { lid := lidOf h.id h.rtr
    length := min h.dlc.toNat 8
    data := payloadOf (memRead s (s.cfg.rxWord i 2)) (memRead s (s.cfg.rxWord i 3))
    timestamp := absoluteTime s.regs.cpb s.clock s.ctrl.tscnt h.ts }

/-- The record of TX-event element `i` (`20_memory.md` R117). -/
def State.eventAt (s : State) (i : Nat) : TxeRec :=
  unpackTxe s.cfg.pack (memRead s (s.cfg.txeWord i 0)) (memRead s (s.cfg.txeWord i 1))

/-- The message of TX-event element `i` as the drain hands it over when neither clock moves (R298). -/
def State.eventMessage (s : State) (i : Nat) : RxMsg :=
  let e := s.eventAt i
  { lid := lidOf e.id e.rtr
    length := min e.dlc.toNat 8
    data := payloadOf (memRead s (s.cfg.txWord e.tag.toNat 2)) (memRead s (s.cfg.txWord e.tag.toNat 3))
    timestamp := absoluteTime s.regs.cpb s.clock s.ctrl.tscnt e.ts }

/-- TX slot `i` holds the message `m` as R276 lays it out. -/
def State.slotHolds (s : State) (i : Nat) (m : TxMsg) : Prop :=
  memRead s (s.cfg.txWord i 0) = packTxId s.cfg.pack { id := idOf m.lid, rtr := remoteOf m.lid } ∧
  memRead s (s.cfg.txWord i 1) = packTxCtl s.cfg.pack
    { dlc := BitVec.ofNat 4 (min m.length 8)
      evt := s.cfg.rxOwnTx
      tag := if s.cfg.rxOwnTx then BitVec.ofNat 8 i else 0 } ∧
  memRead s (s.cfg.txWord i 2) = wordOf m.data[0] m.data[1] m.data[2] m.data[3] ∧
  memRead s (s.cfg.txWord i 3) = wordOf m.data[4] m.data[5] m.data[6] m.data[7]

/-- The agent whose move comes next (`20_memory.md` R120); the sequencer when nothing is listed. -/
def State.mover (s : State) : Turn := (nextMove s).1

/-- The sequencer moves next and its frame runs an INIT at its first label. -/
def State.startsInit (s : State) : Prop :=
  s.mover = .seq ∧ ∃ c f dev, s.current = some (c, f) ∧ f.op = .init dev ∧ f.seq = .initS0

/-- A run of `n` steps. -/
def runSteps (n : Nat) (s : State) : Result := Host.Core.run Sys2Proof.core n s

/-- A safe run: `n` steps, none of which stops. -/
def safeRun (n : Nat) (s : State) : Prop := ∃ t, runSteps n s = .next t

end Sys2Proof.Machine
end

