-- ==== Sys2Proof/Certificates/Slice0/Obligations.lean ====
section
/-! DEFINITION. The statements for the provers. Each docstring names the rules of `spec/` it formalises. A hypothesis
`s.At c f l` says that the current frame is `f`, in context `c`, at label `l`. -/

open Sys2Proof Sys2Proof.Machine

/-! Encoding. -/

/-- `30_encoding.md` R150, R152, R154: the decoder reads an instruction from a word exactly when the word is that
instruction's encoding, with every operand at every value. -/
def Obligations.DecodeIsInverseOfEncode : Prop := ∀ (w : Word) (i : Instr), decode w = .ok i ↔ encode i = w

/-- `30_encoding.md` R153: the fourteen (match, mask) pairs, that they are disjoint, and that a word is a command of a row
exactly when it meets the row. -/
def Obligations.DecodeByMatchAndMask : Prop :=
  tableRows.map (fun r => (rowMatch r, rowMask r)) =
    [(0x00000000#32, 0xFFFFFFFF#32), (0x10000000#32, 0xFFFFFF00#32), (0x20000000#32, 0xFFFFFFFF#32),
     (0x30000000#32, 0xFFFFFFFF#32), (0x40000000#32, 0xFFFFFFFF#32), (0x50000000#32, 0xFFFFFFFF#32),
     (0x60000000#32, 0xFFFFFFFF#32), (0x70000000#32, 0xF800F800#32), (0x80000000#32, 0xFFFFFFFF#32),
     (0x90000000#32, 0xFFFFFFFF#32), (0xA0000000#32, 0xFFFF0000#32), (0xB0000000#32, 0xFFFFFFFF#32),
     (0xC0000000#32, 0xFFFFFFFF#32), (0xD0000000#32, 0xFFFFFFFF#32)] ∧
  (∀ (w : Word), ∀ r ∈ tableRows, ∀ q ∈ tableRows,
    w &&& rowMask r = rowMatch r → w &&& rowMask q = rowMatch q → r = q) ∧
  (∀ (w : Word) (i : Instr), decode w = .ok i →
    ∃ r ∈ tableRows, w &&& rowMask r = rowMatch r ∧ rowMatch i = rowMatch r ∧ rowMask i = rowMask r) ∧
  (∀ w : Word, (∀ r ∈ tableRows, w &&& rowMask r ≠ rowMatch r) ↔ ∃ e, decode w = .error e)

/-- `30_encoding.md` R155: which words are illegal, bit by bit from the formats of R150, and what submitting one to an idle
port does: `CMD` and `STAT` of that port, nothing else. -/
def Obligations.IllegalWordsHaveNoEffect : Prop :=
  (∀ w : Word, (∃ e, decode w = .error e) ↔
    (w.toNat / 2 ^ 28 = 0xE ∨ w.toNat / 2 ^ 28 = 0xF ∨
     (if w.toNat / 2 ^ 28 = 0x1 then w.toNat / 2 ^ 8 % 2 ^ 20 ≠ 0
      else if w.toNat / 2 ^ 28 = 0x7 then w.toNat / 2 ^ 27 % 2 ≠ 0 ∨ w.toNat / 2 ^ 11 % 2 ^ 5 ≠ 0
      else if w.toNat / 2 ^ 28 = 0xA then w.toNat / 2 ^ 16 % 2 ^ 12 ≠ 0
      else w.toNat % 2 ^ 28 ≠ 0))) ∧
  (∀ (s : State) (c : Ctx) (w : Word), (∃ e, decode w = .error e) → s.frame c = none →
    submit c w s = s.setPort c { cmd := w, stat := doneStat .illCmd 0 false false, frame := none })

/-- `30_encoding.md` R154: every operand field is the unsigned integer in the bits R150 gives it. -/
def Obligations.OperandFieldsAreUnsigned : Prop :=
  ∀ w : Word,
    (∀ dev, decode w = .ok (.init dev) → dev.toNat = w.toNat % 2 ^ 8) ∧
    (∀ id mask, decode w = .ok (.aadd id mask) →
      id.toNat = w.toNat / 2 ^ 16 % 2 ^ 11 ∧ mask.toNat = w.toNat % 2 ^ 11) ∧
    (∀ ts, decode w = .ok (.tsrec ts) → ts.toNat = w.toNat % 2 ^ 16)

/-- Words written out from `30_encoding.md` R150 and the examples of the operation rules. -/
def Obligations.SampleWordsDecode : Prop :=
  decode 0x00000000 = .ok .nop ∧ decode 0x10000001 = .ok (.init 1) ∧ decode 0x20000000 = .ok .disable ∧
  decode 0x30000000 = .ok .enable ∧ decode 0x40000000 = .ok .solve ∧ decode 0x50000000 = .ok .setspeed ∧
  decode 0x60000000 = .ok .aclr ∧ decode 0x712307FF = .ok (.aadd 0x123 0x7FF) ∧ decode 0x80000000 = .ok .htx ∧
  decode 0x90000000 = .ok .hrx ∧ decode 0xA000FFF0 = .ok (.tsrec 0xFFF0) ∧ decode 0xB0000000 = .ok .rpsr ∧
  decode 0xC0000000 = .ok .upderr ∧ decode 0xD0000000 = .ok .htxe ∧
  decode 0xE0000000 = .error .reservedOpcode ∧ decode 0x78000000 = .error .mustBeZero ∧
  decode 0x00000001 = .error .mustBeZero

/-- `30_encoding.md` R165, R166: an operand that does not fit is an assembly error, never truncated; otherwise the word the
assembler writes decodes to the command; the pseudo-commands are the commands they expand to. -/
def Obligations.AssemblerNeverTruncates : Prop :=
  (∀ a : AsmCmd, a.word = none ↔
    (∃ dev, a = .init dev ∧ 255 < dev) ∨ (∃ id mask, a = .aadd id mask ∧ (0x7FF < id ∨ 0x7FF < mask)) ∨
    (∃ ts, a = .tsrec ts ∧ 0xFFFF < ts) ∨ (∃ id, a = .accept id ∧ 0x7FF < id)) ∧
  (∀ dev w, AsmCmd.word (.init dev) = some w → ∃ d : BitVec 8, d.toNat = dev ∧ decode w = .ok (.init d)) ∧
  (∀ id mask w, AsmCmd.word (.aadd id mask) = some w →
    ∃ i m : BitVec 11, i.toNat = id ∧ m.toNat = mask ∧ decode w = .ok (.aadd i m)) ∧
  (∀ ts w, AsmCmd.word (.tsrec ts) = some w → ∃ t : BitVec 16, t.toNat = ts ∧ decode w = .ok (.tsrec t)) ∧
  (∀ id, AsmCmd.word (.accept id) = AsmCmd.word (.aadd id 0x7FF)) ∧
  AsmCmd.word .acceptAll = AsmCmd.word (.aadd 0 0) ∧ AsmCmd.word .poll = AsmCmd.word .upderr

/-- `20_memory.md` R114 to R117 under the packing of any valid configuration (`00_scope.md` R12): what is packed is read
back, whatever the controller puts in the bits that carry no field, and the zero filter word is a disabled entry. How a
packing is represented is the model's choice (assumption log 2). -/
def Obligations.PackingRoundTrips : Prop :=
  ∀ (cfg : Cfg) (p : Pack), cfg.valid = true → p = cfg.pack →
    (∀ id mask, unpackFlt p (packFlt p { mode := .maskId, action := .toRx, id := id, mask := mask }) =
      { mode := .maskId, action := .toRx, id := id, mask := mask }) ∧
    (unpackFlt p 0).action = .disabled ∧
    (∀ id rtr xtd dlc ts junk0 junk1,
      unpackRx p (packRx0 p { id := id, rtr := rtr, xtd := xtd } junk0) (packRx1 p { dlc := dlc, ts := ts } junk1) =
        { id := id, rtr := rtr, xtd := xtd, dlc := dlc, ts := ts }) ∧
    (∀ r, unpackTxId p (packTxId p r) = r) ∧ (∀ r, unpackTxCtl p (packTxCtl p r) = r) ∧
    (∀ id rtr dlc ts tag junk0 junk1,
      unpackTxe p (packTxe0 p { id := id, rtr := rtr } junk0) (packTxe1 p { dlc := dlc, ts := ts, tag := tag } junk1) =
        { id := id, rtr := rtr, dlc := dlc, ts := ts, tag := tag })

/-- `10_state.md` R59 to R78 and `20_memory.md` R113 under the packing of any valid configuration (`00_scope.md` R12): every
legal record of a device register is read back from its word, so that two legal records of one register have different words
(U20: injective). Which records are legal is the model's reading (assumption log 2). Of the offsets a valid configuration asks
nothing; those of the reference packing are distinct (PRESUMED, log 2). -/
def Obligations.DeviceRegistersPackFaithfully : Prop :=
  ∀ cfg : Cfg, cfg.valid = true →
    (∀ r : DevRec, r.legal cfg = true → unpackDev cfg.pack r.reg (packDev cfg.pack r) = r) ∧
    (∀ r q : DevRec, r.legal cfg = true → q.legal cfg = true → r.reg = q.reg →
      packDev cfg.pack r = packDev cfg.pack q → r = q) ∧
    (∀ r q : DevReg, devOffset Pack.reference r = devOffset Pack.reference q → r = q)

/-! Steps, submission and the host port. -/

/-- `10_state.md` R41, R42, `20_memory.md` R120: a step is the next agent's move; the sequencer's is `exec` of the current
frame's operation. With an instruction word placed, the very next step is that instruction's first (assumption log 4). An
idle sequencer stutters and an invalid configuration is refused (assumption log 5, `00_scope.md` R13). -/
def Obligations.StepRunsTheFrame : Prop :=
  (∀ (s : State) c f, s.cfg.valid = true → s.sched = [] → s.current = some (c, f) → step s = exec f.op s) ∧
  (∀ (s : State) c f rest, s.cfg.valid = true → s.sched = .seq :: rest → s.current = some (c, f) →
    step s = exec f.op { s with sched := rest }) ∧
  (∀ (s : State) m rest, s.cfg.valid = true → s.sched = m :: rest → m ≠ .seq →
    step s = .next (agentMove m { s with sched := rest })) ∧
  (∀ (s : State) (w : Word) i, s.cfg.valid = true → decode w = .ok i →
    step (s.withFetchWord 32 w.toNat) = exec i (s.withFetchWord 32 w.toNat) ∧
    (s.withFetchWord 32 w.toNat).current = some (.fg, Frame.start i)) ∧
  (∀ s : State, s.cfg.valid = true → s.sched = [] → s.current = none → step s = .next s) ∧
  (∀ s : State, s.cfg.valid = false → step s = .refused .invalidConfig)

/-- `30_encoding.md` R161: the acceptance step on an idle port, its checks in order. -/
def Obligations.AcceptanceChecksInOrder : Prop :=
  ∀ (s : State) (c : Ctx) (w : Word), s.frame c = none →
    submit c w s = s.setPort c
      (match decode w with
       | .error _ => { cmd := w, stat := doneStat .illCmd 0 false false, frame := none }
       | .ok i =>
         if c = .is ∧ i ∉ [Instr.nop, .htx, .hrx, .htxe, .rpsr, .upderr] ∧ (∀ ts, i ≠ .tsrec ts) then
           { cmd := w, stat := doneStat .ctx 0 false false, frame := none }
         else if s.regs.cstate.inst = false ∧ i ∉ [Instr.nop, .solve] ∧ (∀ dev, i ≠ .init dev) then
           { cmd := w, stat := doneStat .noInst 0 false false, frame := none }
         else
           { cmd := w
             stat := { done := false, ok := false, bp := false, ovr := false, err := .ok, n := 0 }
             frame := some
               { op := i, seq := firstLabel i, loc := Locals.empty, crit := false, n := 0, bp := false } })

/-- `30_encoding.md` R160: a host write to a command port, busy or idle, at any time. -/
def Obligations.BusyPortIgnoresCommands : Prop :=
  (∀ (s : State) (w : Word), hostWrite s 0x00 4 w = submit .fg w s ∧ hostWrite s 0x08 4 w = submit .is w s) ∧
  (∀ (s : State) (c : Ctx) (w : Word), s.frame c ≠ none →
    submit c w s = s.setPort c { s.port c with stat := { (s.port c).stat with ovr := true } }) ∧
  (∀ (s : State) (c : Ctx) (w : Word), s.frame c = none → submit c w s = accept c w s)

/-- `20_memory.md` R104: a host access of another width or off alignment has no effect and reads 0. -/
def Obligations.HostAccessIsAligned32 : Prop :=
  ∀ (s : State) (off bytes : Nat) (v : Word), (bytes ≠ 4 ∨ off % 4 ≠ 0) →
    hostWrite s off bytes v = s ∧ hostRead s off bytes = 0

/-- `10_state.md` R31, R34, R52, with the bits of R45 and R46 and the codes of `60_exceptions.md` R360: the parameter
registers hold what is written, 16 bits wide where R52 says so; a write to any other offset but a command port changes
nothing; every offset of the map reads its own register, in every state; an offset past the map reads 0. -/
def Obligations.HostRegisterMap : Prop :=
  (∀ (s : State) (v : Word),
    hostRead (hostWrite s 0x10 4 v) 0x10 4 = v ∧ hostRead (hostWrite s 0x14 4 v) 0x14 4 = v ∧
    (hostRead (hostWrite s 0x18 4 v) 0x18 4).toNat = v.toNat % 2 ^ 16 ∧
    (hostRead (hostWrite s 0x1C 4 v) 0x1C 4).toNat = v.toNat % 2 ^ 16) ∧
  (∀ (s : State) (v : Word), ∀ off ∈ [0x10, 0x14, 0x18, 0x1C],
    (∀ other, other ≠ off → hostRead (hostWrite s off 4 v) other 4 = hostRead s other 4) ∧
    (hostWrite s off 4 v).fgPort = s.fgPort ∧ (hostWrite s off 4 v).isPort = s.isPort) ∧
  (∀ (s : State) (off : Nat) (v : Word), off ∉ [0x00, 0x08, 0x10, 0x14, 0x18, 0x1C] → hostWrite s off 4 v = s) ∧
  (∀ (s : State) (off : Nat), 0x78 ≤ off → hostRead s off 4 = 0) ∧
  (∀ s : State,
    hostRead s 0x00 4 = s.fgPort.cmd ∧ hostRead s 0x08 4 = s.isPort.cmd ∧
    hostRead s 0x10 4 = s.regs.pClock ∧ hostRead s 0x14 4 = s.regs.pRate ∧
    (hostRead s 0x18 4).toNat = s.regs.pSp.toNat ∧ (hostRead s 0x1C 4).toNat = s.regs.pRj.toNat ∧
    hostRead s 0x20 4 = s.regs.btPresc ∧ hostRead s 0x24 4 = s.regs.btSeg1 ∧ hostRead s 0x28 4 = s.regs.btSeg2 ∧
    hostRead s 0x2C 4 = s.regs.btSjw ∧ hostRead s 0x34 4 = s.regs.fcount ∧
    hostRead s 0x38 4 = s.regs.errs.stuff ∧ hostRead s 0x3C 4 = s.regs.errs.form ∧
    hostRead s 0x40 4 = s.regs.errs.ack ∧ hostRead s 0x44 4 = s.regs.errs.crc ∧
    hostRead s 0x48 4 = s.regs.errs.bit0 ∧ hostRead s 0x4C 4 = s.regs.errs.bit1 ∧
    (hostRead s 0x50 4).toNat = s.regs.recv.toNat ∧ (hostRead s 0x54 4).toNat = s.regs.tec.toNat ∧
    hostRead s 0x58 4 = s.regs.errLog ∧ hostRead s 0x5C 4 = s.regs.rxCount ∧ hostRead s 0x60 4 = s.regs.tsAbs ∧
    hostRead s 0x64 4 = s.regs.cpb ∧ hostRead s 0x68 4 = BitVec.ofNat 32 s.cfg.offFlt ∧
    hostRead s 0x6C 4 = BitVec.ofNat 32 s.cfg.offRx ∧ hostRead s 0x70 4 = BitVec.ofNat 32 s.cfg.offTx ∧
    hostRead s 0x74 4 = BitVec.ofNat 32 s.cfg.offTxe) ∧
  (∀ (s : State) (w : Word), w = hostRead s 0x30 4 →
    w.getLsbD 0 = s.regs.cstate.inst ∧ w.getLsbD 1 = s.regs.cstate.enabled ∧ w.getLsbD 2 = s.regs.cstate.warning ∧
    w.getLsbD 3 = s.regs.cstate.busOff ∧ w.getLsbD 4 = s.regs.cstate.btFb ∧
    (w.extractLsb' 5 2).toNat =
      (match s.regs.cstate.health with | .errorActive => 0 | .errorWarning => 1 | .busOff => 2) ∧
    w.getLsbD 7 = false ∧ w.extractLsb' 8 8 = s.regs.cstate.dev ∧ w.extractLsb' 16 16 = 0) ∧
  (∀ (s : State) c (w : Word), w = hostRead s (match c with | .fg => 0x04 | .is => 0x0C) 4 →
    w.getLsbD 0 = (s.frame c).isSome ∧ w.getLsbD 1 = (s.port c).stat.done ∧ w.getLsbD 2 = (s.port c).stat.ok ∧
    w.getLsbD 3 = (s.port c).stat.bp ∧ w.getLsbD 4 = (s.port c).stat.ovr ∧ w.extractLsb' 5 3 = 0 ∧
    (w.extractLsb' 8 4).toNat =
      (match (s.port c).stat.err with | .ok => 0 | .badDev => 1 | .noInst => 2 | .illCmd => 3 | .ctx => 4) ∧
    w.extractLsb' 12 4 = 0 ∧ w.extractLsb' 16 16 = (s.port c).stat.n)

/-! Contexts. -/

/-- `10_state.md` R42: which frame steps, and that an IS frame, once it can start, steps until it is gone while the FG frame
stays where it is. -/
def Obligations.IsContextPreempts : Prop :=
  (∀ (s : State) f, s.frame .is = some f → (∀ g, s.frame .fg = some g → g.crit = false) →
    s.current = some (.is, f)) ∧
  (∀ (s : State) g, s.frame .fg = some g → (g.crit = true ∨ s.frame .is = none) → s.current = some (.fg, g)) ∧
  (∀ s : State, s.current = none ↔ s.frame .fg = none ∧ s.frame .is = none) ∧
  (∀ (s t : State) f, s.current = some (.is, f) → exec f.op s = .next t →
    t.frame .fg = s.frame .fg ∧ (t.frame .is = none ∨ ∃ g, t.current = some (.is, g)))

/-- `20_memory.md` R125, `43_tx_engine.md` R274, `60_exceptions.md` R373: from inside the FG critical section the machine
reaches, after at most eight steps, a state in which no FG frame has its critical flag set and the IS port, with the frame
that waits there, is as it was. -/
def Obligations.CriticalSectionIsShort : Prop :=
  ∀ (s : State) f, s.Inv → s.sched = [] → s.frame .fg = some f → f.crit = true →
    ∃ k t, 1 ≤ k ∧ k ≤ 8 ∧ runSteps k s = .next t ∧ t.isPort = s.isPort ∧ ∀ g, t.frame .fg = some g → g.crit = false

/-- `30_encoding.md` R162, `60_exceptions.md` R361: the step that ends a frame writes `STAT_c` as R162 says, from the frame's
`n` and its `bp`, which the step `HTX.X1` sets (`43_tx_engine.md` R272, `00_scope.md` R17); `E_BADDEV` comes only from INIT; a step that does not end its frame leaves `CMD_c` and `STAT_c` alone. -/
def Obligations.CompletionWritesStatus : Prop :=
  ∀ (s t : State) c f, s.current = some (c, f) → exec f.op s = .next t →
    (t.port c).cmd = (s.port c).cmd ∧
    (t.frame c = none →
      ∃ e, (t.port c).stat =
          { done := true, ok := decide (e = .ok), bp := f.bp || f.seq == .htxX1,
            ovr := (s.port c).stat.ovr, err := e, n := BitVec.ofNat 16 f.n } ∧
        (e = .ok ∨ (e = .badDev ∧ ∃ dev, f.op = .init dev ∧ s.cfg.numDev ≤ dev.toNat))) ∧
    (t.frame c ≠ none → (t.port c).stat = (s.port c).stat)

/-- `20_memory.md` R126, `10_state.md` R43, `60_exceptions.md` R371: a step keeps its frame's operation and operands and does
not touch the other port; no move of another agent but reset changes or removes a frame. -/
def Obligations.RunningCommandCannotBeChanged : Prop :=
  (∀ (s t : State) c f, s.current = some (c, f) → exec f.op s = .next t →
    (∀ d, d ≠ c → t.port d = s.port d) ∧ (∀ g, t.frame c = some g → g.op = f.op)) ∧
  (∀ (s : State) m c f, m ≠ .reset → s.frame c = some f → (agentMove m s).frame c = some f)

/-! Frames: what the operations leave unchanged. -/

/-- `10_state.md` R81, `42_filters.md` R251, R254, `43_tx_engine.md` R272: a step stores exactly the word `storeTarget` names,
at the address it names, and every other byte of the message RAM reads as before. -/
def Obligations.StepsStoreOnlyTheirWord : Prop :=
  ∀ (s t : State) c f, Memory.wf s.mem = true → s.current = some (c, f) → exec f.op s = .next t →
    (∀ a v, storeTarget s f = some (a, v) →
      memRead t a = v ∧ ∀ x, (x < a ∨ a + 4 ≤ x) → t.byteAt x = s.byteAt x) ∧
    (storeTarget s f = none → ∀ x, t.byteAt x = s.byteAt x)

/-- The "State written" lists of the operation rules, `10_state.md` R32 to R34, R45, R51, R55 to R58: which operation may
change which host register. -/
def Obligations.RegistersHaveFixedWriters : Prop :=
  ∀ (s t : State) (i : Instr), exec i s = .next t →
    (t.regs.pClock = s.regs.pClock ∧ t.regs.pRate = s.regs.pRate ∧ t.regs.pSp = s.regs.pSp ∧ t.regs.pRj = s.regs.pRj) ∧
    ((∀ d, i ≠ .init d) → i ≠ .solve → i ≠ .setspeed →
      t.regs.btPresc = s.regs.btPresc ∧ t.regs.btSeg1 = s.regs.btSeg1 ∧ t.regs.btSeg2 = s.regs.btSeg2 ∧
      t.regs.btSjw = s.regs.btSjw ∧ t.regs.cstate.btFb = s.regs.cstate.btFb) ∧
    ((∀ d, i ≠ .init d) → i ≠ .setspeed → t.regs.cpb = s.regs.cpb) ∧
    ((∀ ts, i ≠ .tsrec ts) → i ≠ .hrx → i ≠ .htxe → t.regs.tsAbs = s.regs.tsAbs) ∧
    ((∀ d, i ≠ .init d) → i ≠ .aclr → (∀ id mask, i ≠ .aadd id mask) → t.regs.fcount = s.regs.fcount) ∧
    ((∀ d, i ≠ .init d) → i ≠ .rpsr → i ≠ .upderr →
      t.regs.errs = s.regs.errs ∧ t.regs.cstate.warning = s.regs.cstate.warning ∧
      t.regs.cstate.busOff = s.regs.cstate.busOff ∧ t.regs.cstate.health = s.regs.cstate.health) ∧
    ((∀ d, i ≠ .init d) → i ≠ .upderr → i ≠ .htx →
      t.regs.recv = s.regs.recv ∧ t.regs.tec = s.regs.tec ∧ t.regs.errLog = s.regs.errLog) ∧
    ((∀ d, i ≠ .init d) → i ≠ .hrx → t.regs.rxCount = s.regs.rxCount) ∧
    ((∀ d, i ≠ .init d) → t.regs.cstate.inst = s.regs.cstate.inst ∧ t.regs.cstate.dev = s.regs.cstate.dev) ∧
    ((∀ d, i ≠ .init d) → i ≠ .disable → i ≠ .enable → i ≠ .setspeed → i ≠ .aclr →
      t.regs.cstate.enabled = s.regs.cstate.enabled)

/-- `10_state.md` R81: which operation may change which device register, and that it reaches no controller but the one
`CSTATE.dev` selects (R45). A frame being received, `rxHeld`, is lost by the operations that inline `Disable`
(`70_reset_and_hazards.md` R423; assumption log 25, DEDUCED). -/
def Obligations.DeviceRegistersHaveFixedWriters : Prop :=
  ∀ (s t : State) (i : Instr), exec i s = .next t →
    (∀ d, d ≠ s.regs.cstate.dev → t.ctrlAt d = s.ctrlAt d) ∧
    ∀ k k', k = s.ctrl → k' = t.ctrlAt s.regs.cstate.dev →
      k'.tscnt = k.tscnt ∧ ((∀ d, i ≠ .init d) → i ≠ .htx → k'.txSent = k.txSent) ∧
      ((∀ d, i ≠ .init d) → i ≠ .disable → i ≠ .setspeed → i ≠ .aclr → k'.rxHeld = k.rxHeld) ∧
      ((∀ d, i ≠ .init d) → i ≠ .disable → i ≠ .enable → i ≠ .setspeed → i ≠ .aclr → k'.mode = k.mode) ∧
      ((∀ d, i ≠ .init d) → i ≠ .setspeed → k'.btr = k.btr) ∧
      ((∀ d, i ≠ .init d) →
        k'.gfc = k.gfc ∧ k'.fltc = k.fltc ∧ k'.rxc = k.rxc ∧ k'.txc = k.txc ∧ k'.txec = k.txec ∧ k'.ie = k.ie ∧
        k'.ils = k.ils) ∧
      (i ≠ .hrx → k'.ir = k.ir) ∧ k'.ir.txDone = k.ir.txDone ∧
      (i ≠ .rpsr → i ≠ .upderr → k'.psr = k.psr) ∧
      (i ≠ .upderr → i ≠ .htx → k'.ecr = k.ecr) ∧
      ((∀ d, i ≠ .init d) → i ≠ .hrx → k'.rxGet = k.rxGet ∧ k'.rxFill = k.rxFill) ∧
      ((∀ d, i ≠ .init d) → i ≠ .htx → k'.txPut = k.txPut ∧ k'.txReq = k.txReq) ∧
      ((∀ d, i ≠ .init d) → i ≠ .hrx → i ≠ .htxe → k'.txeGet = k.txeGet ∧ k'.txeFill = k.txeFill)

/-- `20_memory.md` R108, `43_tx_engine.md` R273, `44_rx_engine.md` R302: a step takes at most one message from the source,
and only HTX does; it hands at most one to the consumer, and only HRX and HTXE do; it touches neither the host clock, nor
the list of moves, nor the configuration. -/
def Obligations.CollaboratorsSeeOneCallAStep : Prop :=
  ∀ (s t : State) (i : Instr), exec i s = .next t →
    t.clock = s.clock ∧ t.sched = s.sched ∧ t.cfg = s.cfg ∧
    (t.source = s.source ∨ (i = .htx ∧ ∃ m, s.source = m :: t.source)) ∧
    (t.consumer = s.consumer ∨ ((i = .hrx ∨ i = .htxe) ∧ ∃ m, t.consumer = s.consumer ++ [m]))

/-! What each operation does. -/

/-- `40_lifecycle.md` R190. -/
def Obligations.NopOnlyCompletes : Prop :=
  ∀ (s : State) c f, s.At c f .nopS0 → exec .nop s = .next (s.ended c f .ok)

/-- `40_lifecycle.md` R194, R193: INIT's first step refuses a device index that names no controller and changes nothing
else; with a valid one it binds the instance and puts ControllerState at its initial values. -/
def Obligations.InitChecksItsDevice : Prop :=
  ∀ (s : State) c f dev, s.At c f .initS0 →
    (s.cfg.numDev ≤ dev.toNat → exec (.init dev) s = .next (s.ended c f .badDev)) ∧
    (dev.toNat < s.cfg.numDev → exec (.init dev) s = .next
      ((s.setRegs
        { s.regs with
          cstate :=
            { inst := true, enabled := false, warning := false, busOff := false, btFb := s.regs.cstate.btFb,
              health := .errorActive, dev := dev }
          fcount := 0
          errs := { stuff := 0, form := 0, ack := 0, crc := 0, bit0 := 0, bit1 := 0 }
          recv := 0
          tec := 0
          errLog := 0
          rxCount := 0 }).moved c f .initS1))

/-- `40_lifecycle.md` R192, R195, R198: the steps of INIT after its check; what `Dis.2` computes after its call is in the step
of the next one (`00_scope.md` R17). A configuration register is written in configuration mode (`20_memory.md` R132). The `MODE`
writes lose a frame being received (`70_reset_and_hazards.md` R423); that this is `rxHeld`, and that emptying the TX ring empties
`txSent`, is the model's reading (assumption log 25, DEDUCED). -/
def Obligations.InitProgramsTheController : Prop :=
  ∀ (s : State) c f dev k, k = s.ctrl →
    (s.At c f .initS1 → exec (.init dev) s = .next
      ((s.setCtrl { k with mode := { init := true, cce := false, fd := false }, rxHeld := [] }).moved c f .initS2)) ∧
    (s.At c f .initS2 → exec (.init dev) s = .next
      ((s.setCtrl { k with mode := { init := true, cce := true, fd := false }, rxHeld := [] }).moved c f .initS3)) ∧
    (s.At c f .initS3 → exec (.init dev) s = .next
      ((s.setRegs
        { storeTiming (solveRegs s.cfg s.regs)
            { s.regs with cstate := { s.regs.cstate with enabled := false } } with
          cpb := cpbOf s.cfg s.regs.pRate }).moved c f .initS4)) ∧
    (∀ j, s.At c f (.initS7 j) → exec (.init dev) s = .next
      ((memWrite s (s.cfg.offFlt + j * s.cfg.fltSz) 0).moved c f
        (if j + 1 < s.cfg.maxf then .initS7 (j + 1) else .initS8))) ∧
    (s.At c f .initS11 → exec (.init dev) s = .next ((s.setCtrl { k with ie := s.cfg.ieInit }).moved c f .initS12)) ∧
    (s.At c f .initS12 → exec (.init dev) s = .next ((s.setCtrl { k with ils := s.cfg.ilsInit }).moved c f .initS13)) ∧
    (s.At c f .initS13 → exec (.init dev) s = .next
      (((s.setCtrl { k with mode := { init := false, cce := false, fd := false } }).setCState
        { s.regs.cstate with enabled := true }).ended c f .ok)) ∧
    (k.mode.init = true → k.mode.cce = true →
      (s.At c f .initS4 → exec (.init dev) s = .next
        ((s.setCtrl
          { k with
            btr :=
              { presc := s.regs.btPresc, seg1 := s.regs.btSeg1, seg2 := s.regs.btSeg2,
                sjw := s.regs.btSjw } }).moved c f .initS5)) ∧
      (s.At c f .initS5 → exec (.init dev) s = .next
        ((s.setCtrl { k with gfc := { rejNomatch := true, rejRemote := true } }).moved c f .initS6)) ∧
      (s.At c f .initS6 → exec (.init dev) s = .next
        ((s.setCtrl { k with fltc := { base := BitVec.ofNat 16 s.cfg.offFlt, count := s.cfg.maxf } }).moved c f
          (.initS7 0))) ∧
      (s.At c f .initS8 → exec (.init dev) s = .next
        ((s.setCtrl
          { k with
            rxc := { base := BitVec.ofNat 16 s.cfg.offRx, count := s.cfg.rxd, overwrite := s.cfg.rxOverwrite }
            rxGet := 0
            rxFill := 0 }).moved c f .initS9)) ∧
      (s.At c f .initS9 → exec (.init dev) s = .next
        ((s.setCtrl
          { k with
            txc := { base := BitVec.ofNat 16 s.cfg.offTx, count := s.cfg.txd }, txPut := 0, txReq := [],
            txSent := [] }).moved c f .initS10)) ∧
      (s.At c f .initS10 → exec (.init dev) s = .next
        ((s.setCtrl
          { k with
            txec := { base := BitVec.ofNat 16 s.cfg.offTxe, count := s.cfg.txed }, txeGet := 0, txeFill := 0 }).moved
          c f .initS11)))

/-- `40_lifecycle.md` R195 to R198: DISABLE's two `MODE` writes in their order, ENABLE's one, and `CSTATE.enabled`.
DISABLE loses a frame being received (`70_reset_and_hazards.md` R423); that this is `rxHeld` is the model's reading (assumption
log 25, DEDUCED). -/
def Obligations.DisableAndEnableWriteMode : Prop :=
  ∀ (s : State) c f k, k = s.ctrl →
    (s.At c f .disableS1 → exec .disable s = .next
      ((s.setCtrl { k with mode := { init := true, cce := false, fd := false }, rxHeld := [] }).moved c f .disableS2)) ∧
    (s.At c f .disableS2 → exec .disable s = .next
      (((s.setCtrl { k with mode := { init := true, cce := true, fd := false }, rxHeld := [] }).setCState
        { s.regs.cstate with enabled := false }).ended c f .ok)) ∧
    (s.At c f .enableS1 → exec .enable s = .next
      (((s.setCtrl { k with mode := { init := false, cce := false, fd := false } }).setCState
        { s.regs.cstate with enabled := true }).ended c f .ok))

/-- `41_bit_timing.md` R220, R226: SOLVE is one step that writes the four `BT_*` registers and `bt_fb` from the four `P_*`
registers, and nothing else. -/
def Obligations.SolveWritesItsResult : Prop :=
  ∀ (s : State) c f r, s.At c f .solveS0 →
    r = solve s.cfg s.regs.pClock.toNat s.regs.pRate.toNat s.regs.pSp.toNat s.regs.pRj.toNat →
    exec .solve s = .next
      ((s.setRegs
        { s.regs with
          btPresc := BitVec.ofNat 32 r.presc
          btSeg1 := BitVec.ofNat 32 r.seg1
          btSeg2 := BitVec.ofNat 32 r.seg2
          btSjw := BitVec.ofNat 32 r.sjw
          cstate := { s.regs.cstate with btFb := r.fb } }).ended c f .ok)

/-- `41_bit_timing.md` R230, R231: the six steps of SETSPEED; what `Dis.2` computes after its call is in the step of the next
one (`00_scope.md` R17). The `MODE` writes lose a frame being received (`70_reset_and_hazards.md` R423; that this is `rxHeld`:
assumption log 25, DEDUCED). -/
def Obligations.SetspeedSteps : Prop :=
  ∀ (s : State) c f k, k = s.ctrl →
    (s.At c f .setspeedS0 → exec .setspeed s = .next
      (s.moved c { f with loc := { f.loc with was := s.regs.cstate.enabled } } .setspeedS1)) ∧
    (s.At c f .setspeedS1 → exec .setspeed s = .next
      ((s.setCtrl { k with mode := { init := true, cce := false, fd := false }, rxHeld := [] }).moved c f .setspeedS2)) ∧
    (s.At c f .setspeedS2 → exec .setspeed s = .next
      ((s.setCtrl { k with mode := { init := true, cce := true, fd := false }, rxHeld := [] }).moved c f .setspeedS3)) ∧
    (s.At c f .setspeedS3 → exec .setspeed s = .next
      ((s.setRegs
        { storeTiming (solveRegs s.cfg s.regs)
            { s.regs with cstate := { s.regs.cstate with enabled := false } } with
          cpb :=
            if s.regs.pRate = 0 then 0 else BitVec.ofNat 32 (s.cfg.hostclkHz / s.regs.pRate.toNat) }).moved
        c f .setspeedS4)) ∧
    (s.At c f .setspeedS4 → k.mode.init = true → k.mode.cce = true → exec .setspeed s = .next
      ((s.setCtrl
        { k with
          btr :=
            { presc := s.regs.btPresc, seg1 := s.regs.btSeg1, seg2 := s.regs.btSeg2,
              sjw := s.regs.btSjw } }).moved c f .setspeedS5)) ∧
    (s.At c f .setspeedS5 → f.loc.was = false → exec .setspeed s = .next (s.ended c f .ok)) ∧
    (s.At c f .setspeedS5 → f.loc.was = true → exec .setspeed s = .next
      (((s.setCtrl { k with mode := { init := false, cce := false, fd := false } }).setCState
        { s.regs.cstate with enabled := true }).ended c f .ok))

/-- `42_filters.md` R252: the steps of ACLR; the `MODE` steps are taken only when it started enabled, and what `Dis.2`
computes after its call is in the step of the next one (`00_scope.md` R17). The `MODE` writes of `Disable` lose a frame being
received (`70_reset_and_hazards.md` R423; that this is `rxHeld`: assumption log 25, DEDUCED). -/
def Obligations.AclrSteps : Prop :=
  ∀ (s : State) c f k, k = s.ctrl →
    (s.At c f .aclrS0 → exec .aclr s = .next
      (s.moved c { f with loc := { f.loc with was := s.regs.cstate.enabled } }
        (if s.regs.cstate.enabled then .aclrS1 else .aclrS3 0))) ∧
    (s.At c f .aclrS1 → exec .aclr s = .next
      ((s.setCtrl { k with mode := { init := true, cce := false, fd := false }, rxHeld := [] }).moved c f .aclrS2)) ∧
    (s.At c f .aclrS2 → exec .aclr s = .next
      ((s.setCtrl { k with mode := { init := true, cce := true, fd := false }, rxHeld := [] }).moved c f (.aclrS3 0))) ∧
    (∀ j, s.At c f (.aclrS3 j) → exec .aclr s = .next
      (((memWrite s (s.cfg.offFlt + j * s.cfg.fltSz) 0).setCState
        { s.regs.cstate with
          enabled := if j = 0 ∧ f.loc.was = true then false else s.regs.cstate.enabled }).moved c f
        (if j + 1 < s.cfg.maxf then .aclrS3 (j + 1) else .aclrS4))) ∧
    (s.At c f .aclrS4 → f.loc.was = true → exec .aclr s = .next
      ((s.setRegs { s.regs with fcount := 0 }).moved c f .aclrS5)) ∧
    (s.At c f .aclrS4 → f.loc.was = false → exec .aclr s = .next
      ((s.setRegs { s.regs with fcount := 0 }).ended c f .ok)) ∧
    (s.At c f .aclrS5 → exec .aclr s = .next
      (((s.setCtrl { k with mode := { init := false, cce := false, fd := false } }).setCState
        { s.regs.cstate with enabled := true }).ended c f .ok))

/-- `42_filters.md` R255: with the table full AADD completes without error and changes nothing. -/
def Obligations.AaddOnAFullTableIsIgnored : Prop :=
  ∀ (s : State) c f id mask, s.At c f .aaddS0 → s.cfg.maxf ≤ s.regs.fcount.toNat →
    exec (.aadd id mask) s = .next (s.ended c f .ok)

/-- `42_filters.md` R254: with room, AADD goes on to store the `{MASK_ID, TO_RX, id, mask}` word at index `FCOUNT` and counts
it. -/
def Obligations.AaddAppendsAFilter : Prop :=
  ∀ (s : State) c f id mask,
    (s.At c f .aaddS0 → s.regs.fcount.toNat < s.cfg.maxf →
      exec (.aadd id mask) s = .next (s.moved c f .aaddS1)) ∧
    (s.At c f .aaddS1 → exec (.aadd id mask) s = .next
      (((memWrite s (s.cfg.offFlt + s.regs.fcount.toNat * s.cfg.fltSz)
          (packFlt s.cfg.pack
            { mode := .maskId, action := .toRx, id := id, mask := mask })).setRegs
        { s.regs with fcount := s.regs.fcount + 1 }).ended c f .ok))

/-- `43_tx_engine.md` R272, R274, R276: the steps of HTX; `bp` and `n` are set in the step of the call after the one they
follow (`00_scope.md` R17). The doorbell clause has the contract of `20_memory.md` R136 as its hypothesis. The ring's depth
is the controller's own `TXC.count`, where R136 writes `TXD` (assumption log 15, DEDUCED; after INIT the two are the same),
and the message taken from an empty source is free (log 10). The doorbell moves `tx_put` on by one slot, as R136 says, and to a
free slot of a ring that is not full (`10_state.md` R68); which of the free ones, where requests dropped out of order (U5) keep
the one R136 names requested, is the model's reading (log 25, DEDUCED). -/
def Obligations.HtxSteps : Prop :=
  ∀ (s : State) c f k, k = s.ctrl →
    (s.At c f .htxS0 → exec .htx s = .next ((ecr1 s).moved c f .htxL0)) ∧
    (s.At c f .htxL0 → s.source = [] → exec .htx s = .next (s.ended c f .ok)) ∧
    (s.At c f .htxL0 → s.source ≠ [] → exec .htx s = .next (s.moved c f .htxL1)) ∧
    (s.At c f .htxL1 → exec .htx s = .next (s.moved c { f with crit := true } .htxL2)) ∧
    (s.At c f .htxL2 → k.txReq.length = k.txc.count → exec .htx s = .next
      (s.moved c { f with loc := { f.loc with put := k.txPut } } .htxX1)) ∧
    (s.At c f .htxL2 → k.txReq.length ≠ k.txc.count → exec .htx s = .next
      (s.moved c { f with loc := { f.loc with put := k.txPut } } .htxL3)) ∧
    (∀ m rest, s.At c f .htxL3 → s.source = m :: rest → exec .htx s = .next
      (({ s with source := rest }).moved c { f with loc := { f.loc with m := m } } .htxL4)) ∧
    (s.At c f .htxL3 → s.source = [] → exec .htx s = .next
      (({ s with free := s.free + 1 }).moved c
        { f with loc := { f.loc with m := Config.freeMessage s.free } } .htxL4)) ∧
    (s.At c f .htxL4 → exec .htx s = .next
      ((memWrite s (s.cfg.offTx + f.loc.put * s.cfg.txSz + 8)
        (f.loc.m.data[3] ++ f.loc.m.data[2] ++ f.loc.m.data[1] ++ f.loc.m.data[0])).moved c f .htxL5)) ∧
    (s.At c f .htxL5 → exec .htx s = .next
      ((memWrite s (s.cfg.offTx + f.loc.put * s.cfg.txSz + 12)
        (f.loc.m.data[7] ++ f.loc.m.data[6] ++ f.loc.m.data[5] ++ f.loc.m.data[4])).moved c f .htxL6)) ∧
    (s.At c f .htxL6 → exec .htx s = .next
      ((memWrite s (s.cfg.offTx + f.loc.put * s.cfg.txSz + 4)
        (packTxCtl s.cfg.pack
          { dlc := BitVec.ofNat 4 (min f.loc.m.length 8)
            evt := s.cfg.rxOwnTx
            tag := if s.cfg.rxOwnTx then BitVec.ofNat 8 f.loc.put else 0 })).moved c f .htxL7)) ∧
    (s.At c f .htxL7 → exec .htx s = .next
      ((memWrite s (s.cfg.offTx + f.loc.put * s.cfg.txSz)
        (packTxId s.cfg.pack { id := f.loc.m.lid.setWidth 11, rtr := f.loc.m.lid.getLsbD 11 })).moved c f .htxL8)) ∧
    (∀ req, s.At c f .htxL8 → f.loc.put = k.txPut → k.txPut < k.txc.count → k.txPut < 32 →
      k.txReq.length ≠ k.txc.count → k.txPut ∉ k.txReq → req = k.txReq ++ [k.txPut] →
      ∃ p, exec .htx s = .next ((s.setCtrl { k with txReq := req, txPut := p }).moved c f .htxL9) ∧
        ((k.txPut + 1) % k.txc.count ∉ req ∨ req.length = k.txc.count → p = (k.txPut + 1) % k.txc.count) ∧
        (req.length < k.txc.count → p < k.txc.count ∧ p ∉ req)) ∧
    (s.At c f .htxL9 → exec .htx s = .next (s.moved c { f with crit := false, n := f.n + 1 } .htxL0)) ∧
    (s.At c f .htxX1 → exec .htx s = .next (s.ended c { f with crit := false, bp := true } .ok))

/-- `44_rx_engine.md` R292 to R295: the steps of HRX but for its TX-event path; `TS_ABS` and `n` are set in the step of the
call after the one they follow (`00_scope.md` R17). The acknowledge clause has the contract of `20_memory.md` R134 as its
hypothesis, and the ring's depth in it is the controller's own `RXC.count`, where R134 writes `RXD` (assumption log 15,
DEDUCED; after INIT the two are the same). -/
def Obligations.HrxSteps : Prop :=
  ∀ (s : State) c f k h time, k = s.ctrl → h = unpackRx s.cfg.pack f.loc.w0 f.loc.w1 →
    time = absoluteTime s.regs.cpb f.loc.t1 f.loc.now16 h.ts →
    (s.At c f .hrxL0 → k.rxFill ≠ 0 → exec .hrx s = .next
      (s.moved c { f with loc := { f.loc with get := k.rxGet } } .hrxL1)) ∧
    (s.At c f .hrxL0 → k.rxFill = 0 → exec .hrx s = .next
      (if s.cfg.rxIrqAck then s.moved c f .hrxE0 else if s.cfg.rxOwnTx then s.moved c f .teL0 else s.ended c f .ok)) ∧
    (s.At c f .hrxL1 → exec .hrx s = .next (s.moved c
      { f with loc := { f.loc with w0 := memRead s (s.cfg.offRx + f.loc.get * s.cfg.rxSz) } } .hrxL2)) ∧
    (s.At c f .hrxL2 → exec .hrx s = .next (s.moved c
      { f with loc := { f.loc with w1 := memRead s (s.cfg.offRx + f.loc.get * s.cfg.rxSz + 4) } } .hrxL3)) ∧
    (s.At c f .hrxL3 → exec .hrx s = .next (s.moved c
      { f with loc := { f.loc with w2 := memRead s (s.cfg.offRx + f.loc.get * s.cfg.rxSz + 8) } } .hrxL4)) ∧
    (s.At c f .hrxL4 → exec .hrx s = .next (s.moved c
      { f with loc := { f.loc with w3 := memRead s (s.cfg.offRx + f.loc.get * s.cfg.rxSz + 12) } } .hrxL5)) ∧
    (s.At c f .hrxL5 → exec .hrx s = .next (s.moved c { f with loc := { f.loc with t0 := s.clock } } .hrxL6)) ∧
    (s.At c f .hrxL6 → exec .hrx s = .next (s.moved c { f with loc := { f.loc with now16 := k.tscnt } } .hrxL7)) ∧
    (s.At c f .hrxL7 → s.cfg.tsBracketMax < (s.clock - f.loc.t0).toNat → exec .hrx s = .next
      (s.moved c { f with loc := { f.loc with t1 := s.clock } } .hrxL5)) ∧
    (s.At c f .hrxL7 → (s.clock - f.loc.t0).toNat ≤ s.cfg.tsBracketMax → exec .hrx s = .next
      (s.moved c { f with loc := { f.loc with t1 := s.clock } } .hrxL8)) ∧
    (s.At c f .hrxL8 → exec .hrx s = .next
      (({ s with
          regs := { s.regs with tsAbs := time, rxCount := s.regs.rxCount + 1 }
          consumer := s.consumer ++
            [{ lid := h.id.setWidth 16 ||| (if h.rtr then 0x0800 else 0)
               length := min h.dlc.toNat 8
               data := payloadOf f.loc.w2 f.loc.w3
               timestamp := time }] } : State).moved c f .hrxL9)) ∧
    (s.At c f .hrxL9 → f.loc.get = k.rxGet → 0 < k.rxFill → exec .hrx s = .next
      ((s.setCtrl { k with rxGet := (k.rxGet + 1) % k.rxc.count, rxFill := k.rxFill - 1 }).moved c
        { f with n := f.n + 1 } .hrxL0)) ∧
    (s.At c f .hrxE0 → exec .hrx s = .next
      (if s.cfg.rxOwnTx then (s.setCtrl { k with ir := { k.ir with rxNew := false } }).moved c f .teL0
       else (s.setCtrl { k with ir := { k.ir with rxNew := false } }).ended c f .ok))

/-- `44_rx_engine.md` R298 to R300: the steps of the TX-event drain in HRX and in HTXE. HTXE's first step is the drain's
first when `RX_OWN_TX` holds and its only one otherwise. `TS_ABS` and `n` are set in the step of the call after the one they
follow (`00_scope.md` R17). Two clauses are the model's reading (assumption log 17, DEDUCED): that the zero payload of a tag
that is no slot is set in the step of `TE.L5`, the two calls it stands for being skipped, and that with `RX_OWN_TX` the check
`HTXE.S0` takes no step. The acknowledge clause has the contract of
`20_memory.md` R138 as its hypothesis, and the ring's depth in it is the controller's own `TXEC.count`, where R138 writes
`TXED` (assumption log 15, DEDUCED; after INIT the two are the same). -/
def Obligations.TxEventDrainSteps : Prop :=
  (∀ (s : State) c f, s.At c f .htxeS0 → s.cfg.rxOwnTx = false → exec .htxe s = .next (s.ended c f .ok)) ∧
  ∀ i, (i = .hrx ∨ i = .htxe) → ∀ (s : State) c f k e time, k = s.ctrl → e = unpackTxe s.cfg.pack f.loc.v0 f.loc.v1 →
    time = absoluteTime s.regs.cpb f.loc.t1 f.loc.now16 e.ts →
    ((s.At c f .teL0 ∨ (i = .htxe ∧ s.At c f .htxeS0 ∧ s.cfg.rxOwnTx = true)) → k.txeFill = 0 →
      exec i s = .next (s.ended c f .ok)) ∧
    ((s.At c f .teL0 ∨ (i = .htxe ∧ s.At c f .htxeS0 ∧ s.cfg.rxOwnTx = true)) → k.txeFill ≠ 0 →
      exec i s = .next (s.moved c { f with loc := { f.loc with eget := k.txeGet } } .teL1)) ∧
    (s.At c f .teL1 → exec i s = .next (s.moved c
      { f with loc := { f.loc with v0 := memRead s (s.cfg.offTxe + f.loc.eget * s.cfg.txeSz) } } .teL2)) ∧
    (∀ v1, s.At c f .teL2 → v1 = memRead s (s.cfg.offTxe + f.loc.eget * s.cfg.txeSz + 4) →
      exec i s = .next (s.moved c { f with loc := { f.loc with v1 := v1 } }
        (if s.cfg.txd ≤ (unpackTxe s.cfg.pack f.loc.v0 v1).tag.toNat then .teL5 else .teL3))) ∧
    (s.At c f .teL3 → exec i s = .next (s.moved c
      { f with loc := { f.loc with p0 := memRead s (s.cfg.offTx + e.tag.toNat * s.cfg.txSz + 8) } } .teL4)) ∧
    (s.At c f .teL4 → exec i s = .next (s.moved c
      { f with loc := { f.loc with p1 := memRead s (s.cfg.offTx + e.tag.toNat * s.cfg.txSz + 12) } } .teL5)) ∧
    (s.At c f .teL5 → e.tag.toNat < s.cfg.txd → exec i s = .next
      (s.moved c { f with loc := { f.loc with t0 := s.clock } } .teL6)) ∧
    (s.At c f .teL5 → s.cfg.txd ≤ e.tag.toNat → exec i s = .next
      (s.moved c { f with loc := { f.loc with p0 := 0, p1 := 0, t0 := s.clock } } .teL6)) ∧
    (s.At c f .teL6 → exec i s = .next (s.moved c { f with loc := { f.loc with now16 := k.tscnt } } .teL7)) ∧
    (s.At c f .teL7 → s.cfg.tsBracketMax < (s.clock - f.loc.t0).toNat → exec i s = .next
      (s.moved c { f with loc := { f.loc with t1 := s.clock } } .teL5)) ∧
    (s.At c f .teL7 → (s.clock - f.loc.t0).toNat ≤ s.cfg.tsBracketMax → exec i s = .next
      (s.moved c { f with loc := { f.loc with t1 := s.clock } } .teL8)) ∧
    (s.At c f .teL8 → exec i s = .next
      (({ s with
          regs := { s.regs with tsAbs := time }
          consumer := s.consumer ++
            [{ lid := e.id.setWidth 16 ||| (if e.rtr then 0x0800 else 0)
               length := min e.dlc.toNat 8
               data := payloadOf f.loc.p0 f.loc.p1
               timestamp := time }] } : State).moved c f .teL9)) ∧
    (s.At c f .teL9 → f.loc.eget = k.txeGet → 0 < k.txeFill → exec i s = .next
      ((s.setCtrl { k with txeGet := (k.txeGet + 1) % k.txec.count, txeFill := k.txeFill - 1 }).moved c
        { f with n := f.n + 1 } .teL0))

/-- `45_timestamp.md` R322, R324: the three steps of TSREC; the product is taken in unbounded integers and reduced modulo 2^32
with the subtraction; "exceeds" is strict. -/
def Obligations.TsrecReconciles : Prop :=
  ∀ (s : State) c f ts,
    (s.At c f .tsrecS1 → exec (.tsrec ts) s = .next
      (s.moved c { f with loc := { f.loc with t0 := s.clock } } .tsrecS2)) ∧
    (s.At c f .tsrecS2 → exec (.tsrec ts) s = .next
      (s.moved c { f with loc := { f.loc with now16 := s.ctrl.tscnt } } .tsrecS3)) ∧
    (s.At c f .tsrecS3 → s.cfg.tsBracketMax < (s.clock - f.loc.t0).toNat → exec (.tsrec ts) s = .next
      (s.moved c { f with loc := { f.loc with t1 := s.clock } } .tsrecS1)) ∧
    (s.At c f .tsrecS3 → (s.clock - f.loc.t0).toNat ≤ s.cfg.tsBracketMax → exec (.tsrec ts) s = .next
      ((s.setRegs
        { s.regs with
          tsAbs := BitVec.ofInt 32
            ((s.clock.toNat : Int) - s.regs.cpb.toNat * (((f.loc.now16.toNat : Int) - ts.toNat) % 2 ^ 16)) }).ended
        c f .ok))

/-- `46_bus_health.md` R337, R336: RPSR is one step that copies `warning` and `bus_off`, sets `health`, counts the last-error
code in at most one counter and leaves `lec` at 7 in the controller. -/
def Obligations.RpsrDecodesStatus : Prop :=
  ∀ (s : State) c f k, s.At c f .rpsrS1 → k = s.ctrl →
    exec .rpsr s = .next
      (((s.setCtrl { k with psr := { k.psr with lec := 7 } }).setRegs
        { s.regs with
          cstate :=
            { s.regs.cstate with
              warning := k.psr.warning
              busOff := k.psr.busOff
              health :=
                if k.psr.busOff then .busOff else if k.psr.warning then .errorWarning else .errorActive }
          errs :=
            match lecClass s.cfg k.psr.lec with
            | none => s.regs.errs
            | some cls => s.regs.errs.bump cls }).ended c f .ok)

/-- `46_bus_health.md` R338, R337, R341: codes 0 and 7 map to no counter; the codes 1 to 6 map one-to-one onto the six
counters; counting one class moves its counter by one, modulo 2^32, and no other; `health` by R341. -/
def Obligations.LastErrorCodesMapOntoCounters : Prop :=
  (∀ cfg : Cfg, lecClass cfg 0 = none ∧ lecClass cfg 7 = none) ∧
  (∀ (cfg : Cfg), cfg.valid = true →
    (∀ cls, ∃ code : BitVec 3, 1 ≤ code.toNat ∧ code.toNat ≤ 6 ∧ lecClass cfg code = some cls) ∧
    ∀ code code' : BitVec 3, ∀ cls, lecClass cfg code = some cls → lecClass cfg code' = some cls → code = code') ∧
  (∀ (e : ErrCounters) cls, (e.bump cls).get cls = e.get cls + 1 ∧
    ∀ cls', cls' ≠ cls → (e.bump cls).get cls' = e.get cls') ∧
  (lecClass Cfg.reference 1 = some .stuff ∧ lecClass Cfg.reference 2 = some .form ∧
    lecClass Cfg.reference 3 = some .ack ∧ lecClass Cfg.reference 4 = some .bit0 ∧
    lecClass Cfg.reference 5 = some .bit1 ∧ lecClass Cfg.reference 6 = some .crc) ∧
  (∀ w, healthOf w true = .busOff) ∧ healthOf true false = .errorWarning ∧ healthOf false false = .errorActive

/-- `46_bus_health.md` R343, R344: UPDERR's first step reads `ECR` once, adding the drained count on a variant that clears on
read and mirroring it on one that does not; its second is `ReadPsr`. -/
def Obligations.UpderrReadsBothRegisters : Prop :=
  ∀ (s : State) c f k, k = s.ctrl →
    (s.At c f .upderrS1 → s.cfg.ecrClearOnRead = true → exec .upderr s = .next
      (((s.setCtrl { k with ecr := { k.ecr with cel := 0 } }).setRegs
        { s.regs with
          recv := k.ecr.recv
          tec := k.ecr.tec
          errLog := s.regs.errLog + BitVec.ofNat 32 k.ecr.cel.toNat }).moved c f .upderrS2)) ∧
    (s.At c f .upderrS1 → s.cfg.ecrClearOnRead = false → exec .upderr s = .next
      ((s.setRegs
        { s.regs with
          recv := k.ecr.recv
          tec := k.ecr.tec
          errLog := BitVec.ofNat 32 k.ecr.cel.toNat }).moved c f .upderrS2)) ∧
    (s.At c f .upderrS2 → exec .upderr s = .next ((psr1 s).ended c f .ok))

/-! Whole operations, with no other agent moving. -/

/-- `70_reset_and_hazards.md` R405, `40_lifecycle.md` R192, `20_memory.md` R132: the state after a successful INIT, whatever came
before, after `13 + MAXF` steps. A frame being received at `Dis.1` is lost (`70_reset_and_hazards.md` R423). That no
transmission is in progress afterwards (`txSent` empty) is the model's reading of R132's empty TX ring and of R423's "after a
re-INIT they are gone" (assumption log 25, DEDUCED), and so is holding the frame being received in `rxHeld`. -/
def Obligations.InitEndsConfigured : Prop :=
  ∀ (s : State) (dev : BitVec 8), s.Fresh (.init dev) → dev.toNat < s.cfg.numDev → Memory.wf s.mem = true →
    ∃ t k k', runSteps (13 + s.cfg.maxf) s = .next t ∧ k = s.ctrlAt dev ∧ k' = t.ctrlAt dev ∧
      t.fgPort.frame = none ∧ t.fgPort.stat = doneStat .ok 0 false s.fgPort.stat.ovr ∧
      t.regs =
        { storeTiming (solveRegs s.cfg s.regs) s.regs with
          cstate :=
            { inst := true, enabled := true, warning := false, busOff := false,
              btFb := (solveRegs s.cfg s.regs).fb, health := .errorActive, dev := dev }
          cpb := cpbOf s.cfg s.regs.pRate
          fcount := 0
          errs := ErrCounters.zero
          recv := 0
          tec := 0
          errLog := 0
          rxCount := 0 } ∧
      k'.btr =
        { presc := t.regs.btPresc, seg1 := t.regs.btSeg1, seg2 := t.regs.btSeg2, sjw := t.regs.btSjw } ∧
      k'.gfc = { rejNomatch := true, rejRemote := true } ∧ k'.Programmed s.cfg ∧
      k'.rxGet = 0 ∧ k'.rxFill = 0 ∧ k'.txPut = 0 ∧ k'.txReq = [] ∧ k'.txSent = [] ∧ k'.rxHeld = [] ∧
      k'.txeGet = 0 ∧ k'.txeFill = 0 ∧
      k'.ie = s.cfg.ieInit ∧ k'.ils = s.cfg.ilsInit ∧ k'.mode = { init := false, cce := false, fd := false } ∧
      k'.ir = k.ir ∧ k'.psr = k.psr ∧ k'.ecr = k.ecr ∧ k'.tscnt = k.tscnt ∧
      t.zoneCleared ∧
      (∀ x, (∀ j < s.cfg.maxf, outsideWord (s.cfg.fltWord j) x) → t.byteAt x = s.byteAt x) ∧
      (∀ d, d ≠ dev → t.ctrlAt d = s.ctrlAt d) ∧ t.isPort = s.isPort ∧ t.source = s.source ∧ t.consumer = s.consumer

/-- `42_filters.md` R252, R253: ACLR from either instance state: the whole zone is zero, so that no identifier is admitted,
`FCOUNT` is 0, the lifecycle state is what it was, in `MAXF + 5` or `MAXF + 2` steps; a frame being received when it takes the
controller off the bus is lost (`70_reset_and_hazards.md` R423; that this is `rxHeld`: assumption log 25, DEDUCED). -/
def Obligations.AclrClearsTheTable : Prop :=
  ∀ (s : State), s.Fresh .aclr → Memory.wf s.mem = true → (s.regs.cstate.enabled = true → s.ctrl.mode =
      { init := false, cce := false, fd := false }) →
    ∃ t, runSteps (if s.regs.cstate.enabled then s.cfg.maxf + 5 else s.cfg.maxf + 2) s = .next t ∧
      t.fgPort.frame = none ∧ t.fgPort.stat = doneStat .ok 0 false s.fgPort.stat.ovr ∧
      t.regs = { s.regs with fcount := 0 } ∧ (∀ d, d ≠ s.regs.cstate.dev → t.ctrlAt d = s.ctrlAt d) ∧
      t.ctrl = { s.ctrl with rxHeld := if s.regs.cstate.enabled then [] else s.ctrl.rxHeld } ∧
      t.zoneCleared ∧
      (∀ x, (∀ j < s.cfg.maxf, outsideWord (s.cfg.fltWord j) x) → t.byteAt x = s.byteAt x) ∧
      (t.ctrl.Programmed s.cfg → ∀ rid, anyFilterMatches t.cfg t.mem t.ctrl rid = false) ∧
      t.isPort = s.isPort ∧ t.source = s.source ∧ t.consumer = s.consumer

/-- `41_bit_timing.md` R230: SETSPEED as a whole, six steps: new timing in the registers and in `BTR`, the lifecycle state
restored, the rings, the filters and every counter untouched; a frame being received is lost (`70_reset_and_hazards.md`
R423; that this is `rxHeld`: assumption log 25, DEDUCED). -/
def Obligations.SetspeedReprogramsTheTiming : Prop :=
  ∀ (s : State), s.Fresh .setspeed →
    ∃ t, runSteps 6 s = .next t ∧
      t.fgPort.frame = none ∧ t.fgPort.stat = doneStat .ok 0 false s.fgPort.stat.ovr ∧
      t.regs =
        { storeTiming (solveRegs s.cfg s.regs) s.regs with cpb := cpbOf s.cfg s.regs.pRate } ∧
      t.ctrl =
        { s.ctrl with
          btr := { presc := t.regs.btPresc, seg1 := t.regs.btSeg1, seg2 := t.regs.btSeg2, sjw := t.regs.btSjw }
          mode :=
            if s.regs.cstate.enabled then { init := false, cce := false, fd := false }
            else { init := true, cce := true, fd := false }
          rxHeld := [] } ∧
      (∀ d, d ≠ s.regs.cstate.dev → t.ctrlAt d = s.ctrlAt d) ∧ (∀ x, t.byteAt x = s.byteAt x) ∧
      t.isPort = s.isPort ∧ t.source = s.source ∧ t.consumer = s.consumer

/-- `43_tx_engine.md` R272, R273, R276, R278: HTX with the TX ring empty, nothing completing during the pass and the source
holding any number of messages. It moves as many as the ring takes, in order, each into its own slot as R276 lays it out,
one doorbell each; with more messages than slots it stops with `bp = 1` and the rest stays in the source. -/
def Obligations.HtxMovesMessagesIntoTheRing : Prop :=
  ∀ (s : State) k n, s.Fresh .htx → Memory.wf s.mem = true → s.cfg.elementsFit = true → k = s.ctrl →
    k.txc.count = s.cfg.txd → k.txPut < s.cfg.txd → k.txReq = [] → n = min s.source.length s.cfg.txd →
    ∃ t k', runSteps (10 * n + if s.source.length ≤ s.cfg.txd then 2 else 5) s = .next t ∧ k' = t.ctrl ∧
      t.fgPort.frame = none ∧
      t.fgPort.stat = doneStat .ok n (decide (s.cfg.txd < s.source.length)) s.fgPort.stat.ovr ∧
      t.source = s.source.drop n ∧
      k'.txReq = (List.range n).map (fun j => (k.txPut + j) % s.cfg.txd) ∧ k'.txPut = (k.txPut + n) % s.cfg.txd ∧
      (∀ j m, j < n → s.source[j]? = some m → t.slotHolds ((k.txPut + j) % s.cfg.txd) m) ∧
      (∀ x, (x < s.cfg.offTx ∨ s.cfg.offTx + s.cfg.txd * s.cfg.txSz ≤ x) → t.byteAt x = s.byteAt x) ∧
      t.regs.recv = k.ecr.recv ∧ t.regs.tec = k.ecr.tec ∧ t.consumer = s.consumer ∧ t.isPort = s.isPort

/-- `44_rx_engine.md` R295: HRX with `fill = 0` and no TX-event path reads no slot, calls no consumer, acknowledges nothing
and only clears the pending "new message" condition, in two steps (one where that clear is not made). -/
def Obligations.HrxOnAnEmptyRing : Prop :=
  ∀ (s : State), s.Fresh .hrx → s.cfg.rxOwnTx = false → s.ctrl.rxFill = 0 →
    runSteps (if s.cfg.rxIrqAck then 2 else 1) s = .next
      ((if s.cfg.rxIrqAck then s.setCtrl { s.ctrl with ir := { s.ctrl.ir with rxNew := false } } else s).ended
        .fg (Frame.start .hrx) .ok)

/-- `44_rx_engine.md` R292, R293, R296, `20_memory.md` R134: HRX drains the ring in strict FIFO order, each message once, in
`10k + 2` steps (`10k + 1` without the `IR` write), with neither clock moving. -/
def Obligations.HrxDrainsInFifoOrder : Prop :=
  ∀ (s : State) k n, s.Fresh .hrx → s.cfg.rxOwnTx = false → k = s.ctrl → n = k.rxFill → k.rxc.count = s.cfg.rxd →
    n ≤ s.cfg.rxd → k.rxGet < s.cfg.rxd →
    ∃ t k', runSteps (10 * n + if s.cfg.rxIrqAck then 2 else 1) s = .next t ∧ k' = t.ctrl ∧
      t.fgPort.frame = none ∧ t.fgPort.stat = doneStat .ok n false s.fgPort.stat.ovr ∧
      t.consumer = s.consumer ++ (List.range n).map (fun j => s.slotMessage ((k.rxGet + j) % s.cfg.rxd)) ∧
      t.regs.rxCount = s.regs.rxCount + BitVec.ofNat 32 n ∧
      k'.rxFill = 0 ∧ k'.rxGet = (k.rxGet + n) % s.cfg.rxd ∧
      k'.ir = (if s.cfg.rxIrqAck then { k.ir with rxNew := false } else k.ir) ∧
      (∀ x, t.byteAt x = s.byteAt x) ∧ t.source = s.source ∧ t.isPort = s.isPort

/-- `44_rx_engine.md` R298, R299, R301: HTXE with `RX_OWN_TX` delivers every stored event, oldest first, each with the payload
of the TX slot its tag names, without touching `RX_COUNT`, in `10k + 1` steps. -/
def Obligations.HtxeDeliversOwnTransmissions : Prop :=
  ∀ (s : State) k n, s.Fresh .htxe → s.cfg.rxOwnTx = true → k = s.ctrl → n = k.txeFill → k.txec.count = s.cfg.txed →
    n ≤ s.cfg.txed → k.txeGet < s.cfg.txed → (∀ i < s.cfg.txed, (s.eventAt i).tag.toNat < s.cfg.txd) →
    ∃ t k', runSteps (10 * n + 1) s = .next t ∧ k' = t.ctrl ∧
      t.fgPort.frame = none ∧ t.fgPort.stat = doneStat .ok n false s.fgPort.stat.ovr ∧
      t.consumer = s.consumer ++ (List.range n).map (fun j => s.eventMessage ((k.txeGet + j) % s.cfg.txed)) ∧
      t.regs.rxCount = s.regs.rxCount ∧ k'.txeFill = 0 ∧ k'.txeGet = (k.txeGet + n) % s.cfg.txed ∧
      (∀ x, t.byteAt x = s.byteAt x) ∧ t.source = s.source ∧ t.isPort = s.isPort

/-! Invariants and whole-machine rules. -/

/-- `70_reset_and_hazards.md` R401: the invariants hold right after reset. The cursors' values there are the model's choice
(assumption log 6). -/
def Obligations.InvariantsHoldAtReset : Prop :=
  State.reset.Inv ∧ State.reset.CursorsInRange ∧ State.reset.EnabledMeansOnBus

/-- `60_exceptions.md` R363, `10_state.md` R51, R45, `70_reset_and_hazards.md` R402: from every state that meets the
invariant every step goes on to a next state that meets it, and no step changes the configuration. -/
def Obligations.EveryStepGoesOnAndKeepsTheInvariant : Prop :=
  ∀ s : State, s.Inv → ∃ t, step s = .next t ∧ t.Inv ∧ t.cfg = s.cfg

/-- `20_memory.md` R133, R134, R136, R138, `10_state.md` R68: every step keeps every controller's cursors in the ranges the
contract gives them, `put` a free slot of a ring that is not full, the unspecified cases U8 and U9 included (the bounds there are the model's, assumption log 9). The depths are those
of the controller's own count registers, where the rules write `RXD`, `TXD`, `TXED`, and a ring of no slots has the cursor 0
(assumption log 15, DEDUCED). And no event of a controller moves a `put` that names a free slot, so that the slot HTX read is
still the one its doorbell is for, and none adds a request; that such a `put` is moved by a doorbell only is the model's
(assumption log 25: DEDUCED from R136, DESIGN CHOICE at a completion and at a dropped request), and so is moving one that names a
requested slot (log 25, DEDUCED from R68). -/
def Obligations.RingCursorsStayInRange : Prop :=
  (∀ s t : State, s.CursorsInRange → step s = .next t → t.CursorsInRange) ∧
  ∀ (s : State) d e, (s.ctrlAt d).txPut ∉ (s.ctrlAt d).txReq →
    ((controllerStep s d e).ctrlAt d).txPut = (s.ctrlAt d).txPut ∧
    ∀ i ∈ ((controllerStep s d e).ctrlAt d).txReq, i ∈ (s.ctrlAt d).txReq

/-- `60_exceptions.md` R380: `CSTATE.enabled` means the bound controller is out of initialisation mode, but for the
steps from the first `MODE` write of `Disable` to the one that clears `enabled` (`00_scope.md` R17). A writer outside CANDRV (R415)
can break it, so its move is left out. -/
def Obligations.EnabledMeansOnTheBus : Prop :=
  ∀ s t : State, s.Inv → s.EnabledMeansOnBus → (∀ d r, s.mover ≠ .ctrl d (.outsideMode r)) → step s = .next t →
    t.EnabledMeansOnBus

/-- `10_state.md` R55: a step moves at most one error counter, by one; nothing decrements or clears one but INIT and
reset. -/
def Obligations.ErrorCountersAreSticky : Prop :=
  ∀ s t : State, step s = .next t → s.mover ≠ .reset → ¬ s.startsInit →
    t.regs.errs = s.regs.errs ∨ ∃ cls, t.regs.errs.get cls = s.regs.errs.get cls + 1 ∧
      ∀ cls', cls' ≠ cls → t.regs.errs.get cls' = s.regs.errs.get cls'

/-- `40_lifecycle.md` R191, R194, `10_state.md` R45: nothing returns to NOINST except reset, and only an INIT that passes its
device check creates an instance or binds it to another controller, the one it names. -/
def Obligations.OnlyResetEndsTheInstance : Prop :=
  ∀ s t : State, step s = .next t → s.mover ≠ .reset →
    (s.regs.cstate.inst = true → t.regs.cstate.inst = true) ∧
    (¬ s.startsInit → t.regs.cstate.inst = s.regs.cstate.inst ∧ t.regs.cstate.dev = s.regs.cstate.dev) ∧
    (t.regs.cstate.inst ≠ s.regs.cstate.inst ∨ t.regs.cstate.dev ≠ s.regs.cstate.dev →
      s.mover = .seq ∧ ∃ c f dev, s.current = some (c, f) ∧ f.op = .init dev ∧ f.seq = .initS0 ∧
        dev.toNat < s.cfg.numDev ∧ t.regs.cstate.inst = true ∧ t.regs.cstate.dev = dev)

/-! The solver, the reconciler, the filters, the controller's contract, reset and the layout. -/

/-- `41_bit_timing.md` R232, R228: the ranges of every result, the sum invariant of a result that is no fallback, and exactly
when a fallback meets it. -/
def Obligations.SolverResultsAreInBounds : Prop :=
  ∀ (cfg : Cfg) (clock rate sp rj : Nat) r b, cfg.valid = true → r = solve cfg clock rate sp rj →
    b = quantaPerBit clock rate r.presc →
    1 ≤ r.presc ∧ r.presc ≤ cfg.prescMax ∧ 1 ≤ r.seg1 ∧ r.seg1 ≤ cfg.seg1Max ∧ 1 ≤ r.seg2 ∧ r.seg2 ≤ cfg.seg2Max ∧
    1 ≤ r.sjw ∧ r.sjw ≤ r.seg1 ∧ r.sjw ≤ r.seg2 ∧ r.sjw ≤ cfg.sjwMax ∧
    (r.fb = false → syncQuanta cfg + r.seg1 + r.seg2 = b) ∧
    (r.fb = true → (syncQuanta cfg + r.seg1 + r.seg2 = b ↔
      (syncQuanta cfg + max 1 (b / 8) + 1 ≤ b ∧ b - syncQuanta cfg - max 1 (b / 8) ≤ cfg.seg1Max ∧
        max 1 (b / 8) ≤ cfg.seg2Max)))

/-- `41_bit_timing.md` R227, R228, with the formulas of R222 to R225: the search stops at the least prescaler whose candidate fits
or that meets a stop condition; the candidate is tested first, so a candidate that fits is accepted, and the fallback is
taken only for one that does not, with the values of R228. -/
def Obligations.SolverSearchStopsFirst : Prop :=
  ∀ (cfg : Cfg) (clock rate sp rj : Nat) (r : BitTiming) (b : Nat → Nat) (seg2 sjw : Nat → Nat) (seg1 : Nat → Int)
    (fit : Nat → Prop),
    1 ≤ cfg.prescMax → r = solve cfg clock rate sp rj →
    (∀ p, b p = if p * rate = 0 then 0 else clock / (p * rate)) →
    (∀ p, seg2 p = max 1 (b p * (1000 - min sp 1000) / 1000)) →
    (∀ p, sjw p = max 1 (b p * min (max rj cfg.rjMin) cfg.rjMax / 1000)) →
    (∀ p, seg1 p = (b p : Int) - (if cfg.syncInSeg1 then 0 else 1) - seg2 p) →
    (∀ p, fit p ↔ 1 ≤ seg1 p ∧ seg1 p ≤ cfg.seg1Max ∧ seg2 p ≤ cfg.seg2Max ∧ sjw p ≤ cfg.sjwMax) →
    (1 ≤ r.presc ∧ r.presc ≤ cfg.prescMax) ∧
    (∀ p, 1 ≤ p → p < r.presc → ¬ fit p ∧ cfg.fbThreshold ≤ b p) ∧
    (fit r.presc → r.fb = false ∧ (r.seg1 : Int) = seg1 r.presc ∧ r.seg2 = seg2 r.presc ∧
      r.sjw = min (sjw r.presc) (min r.seg1 r.seg2)) ∧
    (¬ fit r.presc → r.fb = true ∧ (b r.presc < cfg.fbThreshold ∨ r.presc = cfg.prescMax) ∧
      r.seg2 = min (max 1 (b r.presc / 8)) cfg.seg2Max ∧
      r.seg1 =
        min (max 1 (b r.presc - (if cfg.syncInSeg1 then 0 else 1) - max 1 (b r.presc / 8))) cfg.seg1Max ∧
      r.sjw = min (min (max 1 (b r.presc / 8)) cfg.sjwMax) (min r.seg1 r.seg2))

/-- `45_timestamp.md` R326, R327: when host ticks are `CPB` times the unwrapped bit count plus a constant, a sample less than
2^16 bit times old is reconciled to `CPB` times its own unwrapped count plus the constant, whatever the moment and across
wraps of either counter. -/
def Obligations.ReconciliationIsExactWhenClocksAreLocked : Prop :=
  ∀ (cpb : Word) (off arrival now : Nat), arrival ≤ now → now < arrival + 2 ^ 16 →
    absoluteTime cpb (BitVec.ofNat 32 (cpb.toNat * now + off)) (BitVec.ofNat 16 now) (BitVec.ofNat 16 arrival) =
      BitVec.ofNat 32 (cpb.toNat * arrival + off)

/-- `42_filters.md` R254, R257, `20_memory.md` R142: an AADD that finds the next filter word disabled makes the controller
admit exactly the identifiers its mask admits, beside those admitted before. -/
def Obligations.AaddAdmitsExactlyItsMask : Prop :=
  ∀ (s : State) id mask, s.Fresh (.aadd id mask) → Memory.wf s.mem = true → s.cfg.elementsFit = true →
    s.ctrl.fltc = { base := BitVec.ofNat 16 s.cfg.offFlt, count := s.cfg.maxf } →
    s.regs.fcount.toNat < s.cfg.maxf → memRead s (s.cfg.fltWord s.regs.fcount.toNat) = 0 →
    ∃ t, runSteps 2 s = .next t ∧ t.fgPort.frame = none ∧
      t.regs = { s.regs with fcount := s.regs.fcount + 1 } ∧
      ∀ rid, anyFilterMatches t.cfg t.mem t.ctrl rid =
        (anyFilterMatches s.cfg s.mem s.ctrl rid || decide (rid &&& mask = id &&& mask))

/-- `20_memory.md` R133, R135, R139, R142: what a controller programmed as INIT programs it does with a frame it receives. A
frame that is no standard data frame or that no filter admits is dropped. An accepted one is held, to be stored, with the
bit-time counter of the moment of its acceptance as its stamp; with the ring full in blocking mode it is discarded. Nothing
else changes. In each case `PSR.lec` becomes 0: that every received frame, also one that the filters or a full ring drop, is a
frame transferred without error is the model's reading of R139 (assumption log 25, DEDUCED). That an extended frame is dropped
rests on `44_rx_engine.md` R293 ("no filter CANDRV writes admits an extended frame") and assumption log 11 (DEDUCED). That an
accepted frame is only held at this step, `rx_fill` and `IR.rx_new` moving in a later turn (`StoringFollowsTheContract`), is the
model's reading of R133's moments (log 25, DEDUCED), and that the match sees one snapshot of the filter zone in one step is its
choice (log 29, DESIGN CHOICE). -/
def Obligations.ReceptionFollowsTheContract : Prop :=
  ∀ (s : State) d b k t, s.cfg.valid = true → d.toNat < s.cfg.numDev → k = s.ctrlAt d → k.Programmed s.cfg →
    k.gfc = { rejNomatch := true, rejRemote := true } → k.mode.init = false → k.rxFill ≤ s.cfg.rxd →
    t = controllerStep s d (.arrive b) →
    ((b.rtr = true ∨ b.xtd = true ∨ anyFilterMatches s.cfg s.mem k b.id = false) →
      t = s.setCtrlAt d { k with psr := { k.psr with lec := 0 } }) ∧
    (b.rtr = false → b.xtd = false → anyFilterMatches s.cfg s.mem k b.id = true →
      (k.rxFill = s.cfg.rxd → s.cfg.rxOverwrite = false →
        t = s.setCtrlAt d { k with psr := { k.psr with lec := 0 } }) ∧
      ((k.rxFill < s.cfg.rxd ∨ s.cfg.rxOverwrite = true) →
        t = s.setCtrlAt d { k with psr := { k.psr with lec := 0 }, rxHeld := k.rxHeld ++ [(b, k.tscnt)] }))

/-- `20_memory.md` R133, R135: how a controller programmed as INIT programs it stores the oldest accepted frame: in the next
free slot, with the stamp of its acceptance, or over the oldest slot of a full ring in overwrite mode. Nothing else changes: no
host register, port or collaborator, no other controller, no byte outside the slot. These points are the model's (assumption
log 25, DEDUCED): that storing is a turn of its own, in the order of acceptance; that the ring as it is at this step, not at the
acceptance, decides between R133 and R135, for the free slot, for overwriting and for discarding, so that a frame accepted below
the full mark that meets a full blocking ring here is discarded. The free choice of `IR.rx_new` on an overwriting arrival is
log 11. -/
def Obligations.StoringFollowsTheContract : Prop :=
  ∀ (s : State) d k b ts rest t, s.cfg.valid = true → s.cfg.elementsFit = true → Memory.wf s.mem = true →
    d.toNat < s.cfg.numDev → k = s.ctrlAt d → k.Programmed s.cfg → k.mode.init = false → k.rxGet < s.cfg.rxd →
    k.rxFill ≤ s.cfg.rxd → k.rxHeld = (b, ts) :: rest → t = controllerStep s d .rxStore →
    (∀ i, (k.rxFill < s.cfg.rxd ∧ i = (k.rxGet + k.rxFill) % s.cfg.rxd) ∨
        (k.rxFill = s.cfg.rxd ∧ s.cfg.rxOverwrite = true ∧ i = k.rxGet) →
      unpackRx s.cfg.pack (memRead t (s.cfg.rxWord i 0)) (memRead t (s.cfg.rxWord i 1)) =
        { id := b.id, rtr := b.rtr, xtd := b.xtd, dlc := b.dlc, ts := ts } ∧
      payloadOf (memRead t (s.cfg.rxWord i 2)) (memRead t (s.cfg.rxWord i 3)) = b.data ∧
      (∀ x, (x < s.cfg.rxWord i 0 ∨ s.cfg.rxWord i 0 + 16 ≤ x) → t.byteAt x = s.byteAt x)) ∧
    (k.rxFill < s.cfg.rxd →
      t = { s.setCtrlAt d
        { k with rxFill := k.rxFill + 1, ir := { k.ir with rxNew := true }, rxHeld := rest } with mem := t.mem }) ∧
    (k.rxFill = s.cfg.rxd → s.cfg.rxOverwrite = true →
      t = { s.setCtrlAt d
        { k with
          rxGet := (k.rxGet + 1) % s.cfg.rxd
          ir := { k.ir with rxNew := k.ir.rxNew || b.openIrq }
          rxHeld := rest } with
        mem := t.mem }) ∧
    (k.rxFill = s.cfg.rxd → s.cfg.rxOverwrite = false → t = s.setCtrlAt d { k with rxHeld := rest })

/-- `20_memory.md` R137, R138, R139: what a controller programmed as INIT programs it does when it completes a transmission.
The oldest request is gone, `IR.tx_done` is set, `PSR.lec` is 0, and a slot that asks for an event leaves one, copied from
it and stamped with the bit-time counter at the transmission, in the next free element; with that ring full, or for a slot that
asks for none, there is no event. Nothing else changes: no host register, port or collaborator, no other controller, no byte outside the
element. These clauses are the model's (assumption log 25): transmission (`txSend`, which samples the stamp) and completion are
separate turns, the completion's own counter is the stamp where no `txSend` came, and a second transmission of a slot replaces its
stamp (DEDUCED); `PSR.lec` = 0 reads a completed transmission as a frame transferred without error (R139; DEDUCED), and `tx_put` stays where it names a free slot
(DESIGN CHOICE) and otherwise becomes one (R68; DEDUCED). -/
def Obligations.TransmissionFollowsTheContract : Prop :=
  ∀ (s : State) d k slot rest junk0 junk1 h ctl i others p t, s.cfg.valid = true → s.cfg.elementsFit = true →
    Memory.wf s.mem = true → d.toNat < s.cfg.numDev → k = s.ctrlAt d → k.Programmed s.cfg → k.mode.init = false →
    k.txReq = slot :: rest → slot < s.cfg.txd → k.txeFill ≤ s.cfg.txed →
    h = unpackTxId s.cfg.pack (memRead s (s.cfg.txWord slot 0)) →
    ctl = unpackTxCtl s.cfg.pack (memRead s (s.cfg.txWord slot 1)) → i = (k.txeGet + k.txeFill) % s.cfg.txed →
    t = controllerStep s d (.txDone junk0 junk1) → others = k.txSent.filter (fun x => x.1 ≠ slot) →
    p = (t.ctrlAt d).txPut →
    (k.txPut ∉ rest → p = k.txPut) ∧
    (k.txPut < s.cfg.txd → rest.length < s.cfg.txd → p < s.cfg.txd ∧ p ∉ rest) ∧
    (∀ x, x ≠ d → t.ctrlAt x = s.ctrlAt x) ∧
    controllerStep s d (.txSend slot) = s.setCtrlAt d { k with txSent := others ++ [(slot, k.tscnt)] } ∧
    (ctl.evt = true → k.txeFill < s.cfg.txed →
      t = { s.setCtrlAt d
        { k with
          txReq := rest, txPut := p, txSent := others, ir := { k.ir with txDone := true },
          psr := { k.psr with lec := 0 }, txeFill := k.txeFill + 1 } with
        mem := t.mem } ∧
      t.eventAt i =
        { id := h.id, rtr := h.rtr, dlc := ctl.dlc, ts := (k.txSent.lookup slot).getD k.tscnt, tag := ctl.tag } ∧
      (∀ x, (x < s.cfg.txeWord i 0 ∨ s.cfg.txeWord i 0 + 8 ≤ x) → t.byteAt x = s.byteAt x)) ∧
    (ctl.evt = false ∨ k.txeFill = s.cfg.txed →
      t = s.setCtrlAt d
        { k with
          txReq := rest, txPut := p, txSent := others, ir := { k.ir with txDone := true },
          psr := { k.psr with lec := 0 } })

/-- `20_memory.md` R131, `70_reset_and_hazards.md` R423: a `MODE` write takes effect at its step, `cce` reads as 0 with
`init = 0`, a frame being received is lost with `init = 1`, and a controller with `init = 1` then receives nothing and
transmits nothing. That the frame being received is the one accepted and not yet counted is the model's reading (assumption
log 25, DEDUCED). -/
def Obligations.InitialisationModeIsSilent : Prop :=
  (∀ (s : State) r, devWrite (.mode r) s = s.setCtrl
    { s.ctrl with
      mode := { init := r.init, cce := if r.init then r.cce else false, fd := r.fd }
      rxHeld := if r.init then [] else s.ctrl.rxHeld }) ∧
  (∀ (s : State) d e, (s.ctrlAt d).mode.init = true →
    ((∃ j0 j1, e = .txDone j0 j1) ∨ (∃ i, e = .txSend i) ∨ (∃ b, e = .arrive b) ∨ e = .rxStore ∨ ∃ w, e = .rxWord w) →
      controllerStep s d e = s)

/-- `70_reset_and_hazards.md` R400, R401: a pulse of the reset input, in any state, drops both frames, sets every host register
to its reset value and touches nothing outside CANDRV. -/
def Obligations.ResetPulseResetsCandrvAlone : Prop :=
  (∀ s : State, agentMove .reset s =
    { s with
      fgPort :=
        { cmd := 0, stat := { done := false, ok := false, bp := false, ovr := false, err := .ok, n := 0 },
          frame := none }
      isPort :=
        { cmd := 0, stat := { done := false, ok := false, bp := false, ovr := false, err := .ok, n := 0 },
          frame := none }
      regs :=
        { pClock := 0, pRate := 0, pSp := BitVec.ofNat 16 s.cfg.spDefault, pRj := BitVec.ofNat 16 s.cfg.rjDefault,
          btPresc := 0, btSeg1 := 0, btSeg2 := 0, btSjw := 0,
          cstate :=
            { inst := false, enabled := false, warning := false, busOff := false, btFb := false,
              health := .errorActive, dev := 0 },
          fcount := 0, errs := { stuff := 0, form := 0, ack := 0, crc := 0, bit0 := 0, bit1 := 0 },
          recv := 0, tec := 0, errLog := 0, rxCount := 0, tsAbs := 0, cpb := 0 } }) ∧
  (∀ s : State, (agentMove .reset s).critReq = false) ∧
  (∀ off, hostRead State.reset off 4 =
    if off = 0x18 then 875 else if off = 0x1C then 125 else if off = 0x6C then 0x10 else if off = 0x70 then 0x50
    else if off = 0x74 then 0x70 else 0)

/-- `20_memory.md` R103, R110 to R112, R118: under a valid configuration whose elements hold their words, every word CANDRV
stores to or loads from is aligned, inside its own zone and inside the pool, and the zones do not overlap. -/
def Obligations.ZonesAreDisjointAndAligned : Prop :=
  ∀ cfg : Cfg, cfg.valid = true → cfg.elementsFit = true →
    (cfg.poolOffset ≤ cfg.offFlt ∧ cfg.offFlt + cfg.maxf * cfg.fltSz ≤ cfg.offRx ∧
      cfg.offRx + cfg.rxd * cfg.rxSz ≤ cfg.offTx ∧ cfg.offTx + cfg.txd * cfg.txSz ≤ cfg.offTxe ∧
      cfg.offTxe + cfg.txed * cfg.txeSz ≤ cfg.poolOffset + cfg.poolSize ∧
      cfg.offTxe + cfg.txed * cfg.txeSz ≤ 0x10000) ∧
    (∀ k < cfg.maxf, cfg.fltWord k % 4 = 0 ∧ cfg.offFlt ≤ cfg.fltWord k ∧ cfg.fltWord k + 4 ≤ cfg.offRx) ∧
    (∀ i < cfg.rxd, ∀ w < 4, cfg.rxWord i w % 4 = 0 ∧ cfg.offRx ≤ cfg.rxWord i w ∧ cfg.rxWord i w + 4 ≤ cfg.offTx) ∧
    (∀ i < cfg.txd, ∀ w < 4, cfg.txWord i w % 4 = 0 ∧ cfg.offTx ≤ cfg.txWord i w ∧ cfg.txWord i w + 4 ≤ cfg.offTxe) ∧
    (∀ i < cfg.txed, ∀ w < 2, cfg.txeWord i w % 4 = 0 ∧ cfg.offTxe ≤ cfg.txeWord i w ∧
      cfg.txeWord i w + 4 ≤ cfg.poolOffset + cfg.poolSize)
end

