-- ==== Sys2Proof/Laws/State.lean ====
section
/-! SUPPORT. One lemma per field of State per update, true by rfl or by cases on the context, and the read-after-write
lemmas of the accessors. -/

namespace Sys2Proof.Machine

/-! `s.setPort c p` -/

@[simp] theorem setPort_cfg (s : State) (c : Ctx) (p : Port) : (s.setPort c p).cfg = s.cfg := by cases c <;> rfl
@[simp] theorem setPort_regs (s : State) (c : Ctx) (p : Port) : (s.setPort c p).regs = s.regs := by cases c <;> rfl
@[simp] theorem setPort_ctrls (s : State) (c : Ctx) (p : Port) : (s.setPort c p).ctrls = s.ctrls := by cases c <;> rfl
@[simp] theorem setPort_mem (s : State) (c : Ctx) (p : Port) : (s.setPort c p).mem = s.mem := by cases c <;> rfl
@[simp] theorem setPort_source (s : State) (c : Ctx) (p : Port) : (s.setPort c p).source = s.source := by cases c <;> rfl
@[simp] theorem setPort_consumer (s : State) (c : Ctx) (p : Port) : (s.setPort c p).consumer = s.consumer := by cases c <;> rfl
@[simp] theorem setPort_clock (s : State) (c : Ctx) (p : Port) : (s.setPort c p).clock = s.clock := by cases c <;> rfl
@[simp] theorem setPort_sched (s : State) (c : Ctx) (p : Port) : (s.setPort c p).sched = s.sched := by cases c <;> rfl
@[simp] theorem setPort_free (s : State) (c : Ctx) (p : Port) : (s.setPort c p).free = s.free := by cases c <;> rfl

/-! `s.setFrame c f` -/

@[simp] theorem setFrame_cfg (s : State) (c : Ctx) (f : Option Frame) : (s.setFrame c f).cfg = s.cfg := by cases c <;> rfl
@[simp] theorem setFrame_regs (s : State) (c : Ctx) (f : Option Frame) : (s.setFrame c f).regs = s.regs := by cases c <;> rfl
@[simp] theorem setFrame_ctrls (s : State) (c : Ctx) (f : Option Frame) : (s.setFrame c f).ctrls = s.ctrls := by cases c <;> rfl
@[simp] theorem setFrame_mem (s : State) (c : Ctx) (f : Option Frame) : (s.setFrame c f).mem = s.mem := by cases c <;> rfl
@[simp] theorem setFrame_source (s : State) (c : Ctx) (f : Option Frame) : (s.setFrame c f).source = s.source := by cases c <;> rfl
@[simp] theorem setFrame_consumer (s : State) (c : Ctx) (f : Option Frame) : (s.setFrame c f).consumer = s.consumer := by cases c <;> rfl
@[simp] theorem setFrame_clock (s : State) (c : Ctx) (f : Option Frame) : (s.setFrame c f).clock = s.clock := by cases c <;> rfl
@[simp] theorem setFrame_sched (s : State) (c : Ctx) (f : Option Frame) : (s.setFrame c f).sched = s.sched := by cases c <;> rfl
@[simp] theorem setFrame_free (s : State) (c : Ctx) (f : Option Frame) : (s.setFrame c f).free = s.free := by cases c <;> rfl

/-! `s.setRegs r` -/

@[simp] theorem setRegs_cfg (s : State) (r : HostRegs) : (s.setRegs r).cfg = s.cfg := rfl
@[simp] theorem setRegs_fgPort (s : State) (r : HostRegs) : (s.setRegs r).fgPort = s.fgPort := rfl
@[simp] theorem setRegs_isPort (s : State) (r : HostRegs) : (s.setRegs r).isPort = s.isPort := rfl
@[simp] theorem setRegs_ctrls (s : State) (r : HostRegs) : (s.setRegs r).ctrls = s.ctrls := rfl
@[simp] theorem setRegs_mem (s : State) (r : HostRegs) : (s.setRegs r).mem = s.mem := rfl
@[simp] theorem setRegs_source (s : State) (r : HostRegs) : (s.setRegs r).source = s.source := rfl
@[simp] theorem setRegs_consumer (s : State) (r : HostRegs) : (s.setRegs r).consumer = s.consumer := rfl
@[simp] theorem setRegs_clock (s : State) (r : HostRegs) : (s.setRegs r).clock = s.clock := rfl
@[simp] theorem setRegs_sched (s : State) (r : HostRegs) : (s.setRegs r).sched = s.sched := rfl
@[simp] theorem setRegs_free (s : State) (r : HostRegs) : (s.setRegs r).free = s.free := rfl

/-! `s.setCState c` -/

@[simp] theorem setCState_cfg (s : State) (c : CState) : (s.setCState c).cfg = s.cfg := rfl
@[simp] theorem setCState_fgPort (s : State) (c : CState) : (s.setCState c).fgPort = s.fgPort := rfl
@[simp] theorem setCState_isPort (s : State) (c : CState) : (s.setCState c).isPort = s.isPort := rfl
@[simp] theorem setCState_ctrls (s : State) (c : CState) : (s.setCState c).ctrls = s.ctrls := rfl
@[simp] theorem setCState_mem (s : State) (c : CState) : (s.setCState c).mem = s.mem := rfl
@[simp] theorem setCState_source (s : State) (c : CState) : (s.setCState c).source = s.source := rfl
@[simp] theorem setCState_consumer (s : State) (c : CState) : (s.setCState c).consumer = s.consumer := rfl
@[simp] theorem setCState_clock (s : State) (c : CState) : (s.setCState c).clock = s.clock := rfl
@[simp] theorem setCState_sched (s : State) (c : CState) : (s.setCState c).sched = s.sched := rfl
@[simp] theorem setCState_free (s : State) (c : CState) : (s.setCState c).free = s.free := rfl

/-! `s.setCtrlAt d k` -/

@[simp] theorem setCtrlAt_cfg (s : State) (d : BitVec 8) (k : Ctrl) : (s.setCtrlAt d k).cfg = s.cfg := rfl
@[simp] theorem setCtrlAt_regs (s : State) (d : BitVec 8) (k : Ctrl) : (s.setCtrlAt d k).regs = s.regs := rfl
@[simp] theorem setCtrlAt_fgPort (s : State) (d : BitVec 8) (k : Ctrl) : (s.setCtrlAt d k).fgPort = s.fgPort := rfl
@[simp] theorem setCtrlAt_isPort (s : State) (d : BitVec 8) (k : Ctrl) : (s.setCtrlAt d k).isPort = s.isPort := rfl
@[simp] theorem setCtrlAt_mem (s : State) (d : BitVec 8) (k : Ctrl) : (s.setCtrlAt d k).mem = s.mem := rfl
@[simp] theorem setCtrlAt_source (s : State) (d : BitVec 8) (k : Ctrl) : (s.setCtrlAt d k).source = s.source := rfl
@[simp] theorem setCtrlAt_consumer (s : State) (d : BitVec 8) (k : Ctrl) : (s.setCtrlAt d k).consumer = s.consumer := rfl
@[simp] theorem setCtrlAt_clock (s : State) (d : BitVec 8) (k : Ctrl) : (s.setCtrlAt d k).clock = s.clock := rfl
@[simp] theorem setCtrlAt_sched (s : State) (d : BitVec 8) (k : Ctrl) : (s.setCtrlAt d k).sched = s.sched := rfl
@[simp] theorem setCtrlAt_free (s : State) (d : BitVec 8) (k : Ctrl) : (s.setCtrlAt d k).free = s.free := rfl

/-! `s.setCtrl k` -/

@[simp] theorem setCtrl_cfg (s : State) (k : Ctrl) : (s.setCtrl k).cfg = s.cfg := rfl
@[simp] theorem setCtrl_regs (s : State) (k : Ctrl) : (s.setCtrl k).regs = s.regs := rfl
@[simp] theorem setCtrl_fgPort (s : State) (k : Ctrl) : (s.setCtrl k).fgPort = s.fgPort := rfl
@[simp] theorem setCtrl_isPort (s : State) (k : Ctrl) : (s.setCtrl k).isPort = s.isPort := rfl
@[simp] theorem setCtrl_mem (s : State) (k : Ctrl) : (s.setCtrl k).mem = s.mem := rfl
@[simp] theorem setCtrl_source (s : State) (k : Ctrl) : (s.setCtrl k).source = s.source := rfl
@[simp] theorem setCtrl_consumer (s : State) (k : Ctrl) : (s.setCtrl k).consumer = s.consumer := rfl
@[simp] theorem setCtrl_clock (s : State) (k : Ctrl) : (s.setCtrl k).clock = s.clock := rfl
@[simp] theorem setCtrl_sched (s : State) (k : Ctrl) : (s.setCtrl k).sched = s.sched := rfl
@[simp] theorem setCtrl_free (s : State) (k : Ctrl) : (s.setCtrl k).free = s.free := rfl

/-! `memWrite s a v` -/

@[simp] theorem memWrite_cfg (s : State) (a : Nat) (v : Word) : (memWrite s a v).cfg = s.cfg := rfl
@[simp] theorem memWrite_regs (s : State) (a : Nat) (v : Word) : (memWrite s a v).regs = s.regs := rfl
@[simp] theorem memWrite_fgPort (s : State) (a : Nat) (v : Word) : (memWrite s a v).fgPort = s.fgPort := rfl
@[simp] theorem memWrite_isPort (s : State) (a : Nat) (v : Word) : (memWrite s a v).isPort = s.isPort := rfl
@[simp] theorem memWrite_ctrls (s : State) (a : Nat) (v : Word) : (memWrite s a v).ctrls = s.ctrls := rfl
@[simp] theorem memWrite_source (s : State) (a : Nat) (v : Word) : (memWrite s a v).source = s.source := rfl
@[simp] theorem memWrite_consumer (s : State) (a : Nat) (v : Word) : (memWrite s a v).consumer = s.consumer := rfl
@[simp] theorem memWrite_clock (s : State) (a : Nat) (v : Word) : (memWrite s a v).clock = s.clock := rfl
@[simp] theorem memWrite_sched (s : State) (a : Nat) (v : Word) : (memWrite s a v).sched = s.sched := rfl
@[simp] theorem memWrite_free (s : State) (a : Nat) (v : Word) : (memWrite s a v).free = s.free := rfl

/-! `s.drawn` -/

@[simp] theorem drawn_cfg (s : State) : (s.drawn).cfg = s.cfg := rfl
@[simp] theorem drawn_regs (s : State) : (s.drawn).regs = s.regs := rfl
@[simp] theorem drawn_fgPort (s : State) : (s.drawn).fgPort = s.fgPort := rfl
@[simp] theorem drawn_isPort (s : State) : (s.drawn).isPort = s.isPort := rfl
@[simp] theorem drawn_ctrls (s : State) : (s.drawn).ctrls = s.ctrls := rfl
@[simp] theorem drawn_mem (s : State) : (s.drawn).mem = s.mem := rfl
@[simp] theorem drawn_source (s : State) : (s.drawn).source = s.source := rfl
@[simp] theorem drawn_consumer (s : State) : (s.drawn).consumer = s.consumer := rfl
@[simp] theorem drawn_clock (s : State) : (s.drawn).clock = s.clock := rfl
@[simp] theorem drawn_sched (s : State) : (s.drawn).sched = s.sched := rfl

/-! `onReceived m s` -/

@[simp] theorem onReceived_cfg (s : State) (m : RxMsg) : (onReceived m s).cfg = s.cfg := rfl
@[simp] theorem onReceived_regs (s : State) (m : RxMsg) : (onReceived m s).regs = s.regs := rfl
@[simp] theorem onReceived_fgPort (s : State) (m : RxMsg) : (onReceived m s).fgPort = s.fgPort := rfl
@[simp] theorem onReceived_isPort (s : State) (m : RxMsg) : (onReceived m s).isPort = s.isPort := rfl
@[simp] theorem onReceived_ctrls (s : State) (m : RxMsg) : (onReceived m s).ctrls = s.ctrls := rfl
@[simp] theorem onReceived_mem (s : State) (m : RxMsg) : (onReceived m s).mem = s.mem := rfl
@[simp] theorem onReceived_source (s : State) (m : RxMsg) : (onReceived m s).source = s.source := rfl
@[simp] theorem onReceived_clock (s : State) (m : RxMsg) : (onReceived m s).clock = s.clock := rfl
@[simp] theorem onReceived_sched (s : State) (m : RxMsg) : (onReceived m s).sched = s.sched := rfl
@[simp] theorem onReceived_free (s : State) (m : RxMsg) : (onReceived m s).free = s.free := rfl

/-! `goto c f l s` -/

@[simp] theorem goto_cfg (s : State) (c : Ctx) (f : Frame) (l : Label) : (goto c f l s).cfg = s.cfg := by cases c <;> rfl
@[simp] theorem goto_regs (s : State) (c : Ctx) (f : Frame) (l : Label) : (goto c f l s).regs = s.regs := by cases c <;> rfl
@[simp] theorem goto_ctrls (s : State) (c : Ctx) (f : Frame) (l : Label) : (goto c f l s).ctrls = s.ctrls := by cases c <;> rfl
@[simp] theorem goto_mem (s : State) (c : Ctx) (f : Frame) (l : Label) : (goto c f l s).mem = s.mem := by cases c <;> rfl
@[simp] theorem goto_source (s : State) (c : Ctx) (f : Frame) (l : Label) : (goto c f l s).source = s.source := by cases c <;> rfl
@[simp] theorem goto_consumer (s : State) (c : Ctx) (f : Frame) (l : Label) : (goto c f l s).consumer = s.consumer := by cases c <;> rfl
@[simp] theorem goto_clock (s : State) (c : Ctx) (f : Frame) (l : Label) : (goto c f l s).clock = s.clock := by cases c <;> rfl
@[simp] theorem goto_sched (s : State) (c : Ctx) (f : Frame) (l : Label) : (goto c f l s).sched = s.sched := by cases c <;> rfl
@[simp] theorem goto_free (s : State) (c : Ctx) (f : Frame) (l : Label) : (goto c f l s).free = s.free := by cases c <;> rfl

/-! `finish c f e s` -/

@[simp] theorem finish_cfg (s : State) (c : Ctx) (f : Frame) (e : ResultCode) : (finish c f e s).cfg = s.cfg := by cases c <;> rfl
@[simp] theorem finish_regs (s : State) (c : Ctx) (f : Frame) (e : ResultCode) : (finish c f e s).regs = s.regs := by cases c <;> rfl
@[simp] theorem finish_ctrls (s : State) (c : Ctx) (f : Frame) (e : ResultCode) : (finish c f e s).ctrls = s.ctrls := by cases c <;> rfl
@[simp] theorem finish_mem (s : State) (c : Ctx) (f : Frame) (e : ResultCode) : (finish c f e s).mem = s.mem := by cases c <;> rfl
@[simp] theorem finish_source (s : State) (c : Ctx) (f : Frame) (e : ResultCode) : (finish c f e s).source = s.source := by cases c <;> rfl
@[simp] theorem finish_consumer (s : State) (c : Ctx) (f : Frame) (e : ResultCode) : (finish c f e s).consumer = s.consumer := by cases c <;> rfl
@[simp] theorem finish_clock (s : State) (c : Ctx) (f : Frame) (e : ResultCode) : (finish c f e s).clock = s.clock := by cases c <;> rfl
@[simp] theorem finish_sched (s : State) (c : Ctx) (f : Frame) (e : ResultCode) : (finish c f e s).sched = s.sched := by cases c <;> rfl
@[simp] theorem finish_free (s : State) (c : Ctx) (f : Frame) (e : ResultCode) : (finish c f e s).free = s.free := by cases c <;> rfl

/-! `complete c f s` -/

@[simp] theorem complete_cfg (s : State) (c : Ctx) (f : Frame) : (complete c f s).cfg = s.cfg := by cases c <;> rfl
@[simp] theorem complete_regs (s : State) (c : Ctx) (f : Frame) : (complete c f s).regs = s.regs := by cases c <;> rfl
@[simp] theorem complete_ctrls (s : State) (c : Ctx) (f : Frame) : (complete c f s).ctrls = s.ctrls := by cases c <;> rfl
@[simp] theorem complete_mem (s : State) (c : Ctx) (f : Frame) : (complete c f s).mem = s.mem := by cases c <;> rfl
@[simp] theorem complete_source (s : State) (c : Ctx) (f : Frame) : (complete c f s).source = s.source := by cases c <;> rfl
@[simp] theorem complete_consumer (s : State) (c : Ctx) (f : Frame) : (complete c f s).consumer = s.consumer := by cases c <;> rfl
@[simp] theorem complete_clock (s : State) (c : Ctx) (f : Frame) : (complete c f s).clock = s.clock := by cases c <;> rfl
@[simp] theorem complete_sched (s : State) (c : Ctx) (f : Frame) : (complete c f s).sched = s.sched := by cases c <;> rfl
@[simp] theorem complete_free (s : State) (c : Ctx) (f : Frame) : (complete c f s).free = s.free := by cases c <;> rfl

/-! `raiseIn c f e s` -/

@[simp] theorem raiseIn_cfg (s : State) (c : Ctx) (f : Frame) (e : ResultCode) : (raiseIn c f e s).cfg = s.cfg := by cases c <;> rfl
@[simp] theorem raiseIn_regs (s : State) (c : Ctx) (f : Frame) (e : ResultCode) : (raiseIn c f e s).regs = s.regs := by cases c <;> rfl
@[simp] theorem raiseIn_ctrls (s : State) (c : Ctx) (f : Frame) (e : ResultCode) : (raiseIn c f e s).ctrls = s.ctrls := by cases c <;> rfl
@[simp] theorem raiseIn_mem (s : State) (c : Ctx) (f : Frame) (e : ResultCode) : (raiseIn c f e s).mem = s.mem := by cases c <;> rfl
@[simp] theorem raiseIn_source (s : State) (c : Ctx) (f : Frame) (e : ResultCode) : (raiseIn c f e s).source = s.source := by cases c <;> rfl
@[simp] theorem raiseIn_consumer (s : State) (c : Ctx) (f : Frame) (e : ResultCode) : (raiseIn c f e s).consumer = s.consumer := by cases c <;> rfl
@[simp] theorem raiseIn_clock (s : State) (c : Ctx) (f : Frame) (e : ResultCode) : (raiseIn c f e s).clock = s.clock := by cases c <;> rfl
@[simp] theorem raiseIn_sched (s : State) (c : Ctx) (f : Frame) (e : ResultCode) : (raiseIn c f e s).sched = s.sched := by cases c <;> rfl
@[simp] theorem raiseIn_free (s : State) (c : Ctx) (f : Frame) (e : ResultCode) : (raiseIn c f e s).free = s.free := by cases c <;> rfl

/-! `latchCommand c w s` -/

@[simp] theorem latchCommand_cfg (s : State) (c : Ctx) (w : Word) : (latchCommand c w s).cfg = s.cfg := by cases c <;> rfl
@[simp] theorem latchCommand_regs (s : State) (c : Ctx) (w : Word) : (latchCommand c w s).regs = s.regs := by cases c <;> rfl
@[simp] theorem latchCommand_ctrls (s : State) (c : Ctx) (w : Word) : (latchCommand c w s).ctrls = s.ctrls := by cases c <;> rfl
@[simp] theorem latchCommand_mem (s : State) (c : Ctx) (w : Word) : (latchCommand c w s).mem = s.mem := by cases c <;> rfl
@[simp] theorem latchCommand_source (s : State) (c : Ctx) (w : Word) : (latchCommand c w s).source = s.source := by cases c <;> rfl
@[simp] theorem latchCommand_consumer (s : State) (c : Ctx) (w : Word) : (latchCommand c w s).consumer = s.consumer := by cases c <;> rfl
@[simp] theorem latchCommand_clock (s : State) (c : Ctx) (w : Word) : (latchCommand c w s).clock = s.clock := by cases c <;> rfl
@[simp] theorem latchCommand_sched (s : State) (c : Ctx) (w : Word) : (latchCommand c w s).sched = s.sched := by cases c <;> rfl
@[simp] theorem latchCommand_free (s : State) (c : Ctx) (w : Word) : (latchCommand c w s).free = s.free := by cases c <;> rfl

/-! `refuseCommand c e s` -/

@[simp] theorem refuseCommand_cfg (s : State) (c : Ctx) (e : ResultCode) : (refuseCommand c e s).cfg = s.cfg := by cases c <;> rfl
@[simp] theorem refuseCommand_regs (s : State) (c : Ctx) (e : ResultCode) : (refuseCommand c e s).regs = s.regs := by cases c <;> rfl
@[simp] theorem refuseCommand_ctrls (s : State) (c : Ctx) (e : ResultCode) : (refuseCommand c e s).ctrls = s.ctrls := by cases c <;> rfl
@[simp] theorem refuseCommand_mem (s : State) (c : Ctx) (e : ResultCode) : (refuseCommand c e s).mem = s.mem := by cases c <;> rfl
@[simp] theorem refuseCommand_source (s : State) (c : Ctx) (e : ResultCode) : (refuseCommand c e s).source = s.source := by cases c <;> rfl
@[simp] theorem refuseCommand_consumer (s : State) (c : Ctx) (e : ResultCode) : (refuseCommand c e s).consumer = s.consumer := by cases c <;> rfl
@[simp] theorem refuseCommand_clock (s : State) (c : Ctx) (e : ResultCode) : (refuseCommand c e s).clock = s.clock := by cases c <;> rfl
@[simp] theorem refuseCommand_sched (s : State) (c : Ctx) (e : ResultCode) : (refuseCommand c e s).sched = s.sched := by cases c <;> rfl
@[simp] theorem refuseCommand_free (s : State) (c : Ctx) (e : ResultCode) : (refuseCommand c e s).free = s.free := by cases c <;> rfl

/-! `startCommand c i s` -/

@[simp] theorem startCommand_cfg (s : State) (c : Ctx) (i : Instr) : (startCommand c i s).cfg = s.cfg := by cases c <;> rfl
@[simp] theorem startCommand_regs (s : State) (c : Ctx) (i : Instr) : (startCommand c i s).regs = s.regs := by cases c <;> rfl
@[simp] theorem startCommand_ctrls (s : State) (c : Ctx) (i : Instr) : (startCommand c i s).ctrls = s.ctrls := by cases c <;> rfl
@[simp] theorem startCommand_mem (s : State) (c : Ctx) (i : Instr) : (startCommand c i s).mem = s.mem := by cases c <;> rfl
@[simp] theorem startCommand_source (s : State) (c : Ctx) (i : Instr) : (startCommand c i s).source = s.source := by cases c <;> rfl
@[simp] theorem startCommand_consumer (s : State) (c : Ctx) (i : Instr) : (startCommand c i s).consumer = s.consumer := by cases c <;> rfl
@[simp] theorem startCommand_clock (s : State) (c : Ctx) (i : Instr) : (startCommand c i s).clock = s.clock := by cases c <;> rfl
@[simp] theorem startCommand_sched (s : State) (c : Ctx) (i : Instr) : (startCommand c i s).sched = s.sched := by cases c <;> rfl
@[simp] theorem startCommand_free (s : State) (c : Ctx) (i : Instr) : (startCommand c i s).free = s.free := by cases c <;> rfl

/-! `pulseReset s` -/

@[simp] theorem pulseReset_cfg (s : State) : (pulseReset s).cfg = s.cfg := rfl
@[simp] theorem pulseReset_ctrls (s : State) : (pulseReset s).ctrls = s.ctrls := rfl
@[simp] theorem pulseReset_mem (s : State) : (pulseReset s).mem = s.mem := rfl
@[simp] theorem pulseReset_source (s : State) : (pulseReset s).source = s.source := rfl
@[simp] theorem pulseReset_consumer (s : State) : (pulseReset s).consumer = s.consumer := rfl
@[simp] theorem pulseReset_clock (s : State) : (pulseReset s).clock = s.clock := rfl
@[simp] theorem pulseReset_sched (s : State) : (pulseReset s).sched = s.sched := rfl
@[simp] theorem pulseReset_free (s : State) : (pulseReset s).free = s.free := rfl

/-! The changed field. -/

@[simp] theorem setRegs_regs (s : State) (r : HostRegs) : (s.setRegs r).regs = r := rfl
@[simp] theorem setCState_regs (s : State) (c : CState) : (s.setCState c).regs = { s.regs with cstate := c } := rfl
@[simp] theorem memWrite_mem (s : State) (a : Nat) (v : Word) : (memWrite s a v).mem = Memory.storeWord s.mem a v := rfl
@[simp] theorem drawn_free (s : State) : s.drawn.free = s.free + 1 := rfl
@[simp] theorem onReceived_consumer (s : State) (m : RxMsg) : (onReceived m s).consumer = s.consumer ++ [m] := rfl
@[simp] theorem pulseReset_regs (s : State) : (pulseReset s).regs = HostRegs.reset s.cfg := rfl
@[simp] theorem pulseReset_fgPort (s : State) : (pulseReset s).fgPort = Port.reset := rfl
@[simp] theorem pulseReset_isPort (s : State) : (pulseReset s).isPort = Port.reset := rfl

/-! Ports and frames. -/

@[simp] theorem port_setPort_same (s : State) (c : Ctx) (p : Port) : (s.setPort c p).port c = p := by cases c <;> rfl
@[simp] theorem port_setPort_other (s : State) {c d : Ctx} (p : Port) (h : d ≠ c) : (s.setPort c p).port d = s.port d := by
  cases c <;> cases d <;> first | rfl | exact absurd rfl h
@[simp] theorem port_fg (s : State) : s.port .fg = s.fgPort := rfl
@[simp] theorem port_is (s : State) : s.port .is = s.isPort := rfl
@[simp] theorem frame_fg (s : State) : s.frame .fg = s.fgPort.frame := rfl
@[simp] theorem frame_is (s : State) : s.frame .is = s.isPort.frame := rfl
theorem frame_setFrame_same (s : State) (c : Ctx) (f : Option Frame) : (s.setFrame c f).frame c = f := by cases c <;> rfl
theorem frame_setFrame_other (s : State) {c d : Ctx} (f : Option Frame) (h : d ≠ c) : (s.setFrame c f).frame d = s.frame d := by
  cases c <;> cases d <;> first | rfl | exact absurd rfl h
theorem frame_goto_same (s : State) (c : Ctx) (f : Frame) (l : Label) : (goto c f l s).frame c = some { f with seq := l } := by
  cases c <;> rfl
theorem port_goto_other (s : State) {c d : Ctx} (f : Frame) (l : Label) (h : d ≠ c) : (goto c f l s).port d = s.port d := by
  cases c <;> cases d <;> first | rfl | exact absurd rfl h
theorem stat_goto (s : State) (c : Ctx) (f : Frame) (l : Label) : ((goto c f l s).port c).stat = (s.port c).stat := by
  cases c <;> rfl
theorem cmd_goto (s : State) (c : Ctx) (f : Frame) (l : Label) : ((goto c f l s).port c).cmd = (s.port c).cmd := by
  cases c <;> rfl
theorem frame_finish_same (s : State) (c : Ctx) (f : Frame) (e : ResultCode) : (finish c f e s).frame c = none := by
  cases c <;> rfl
theorem port_finish_other (s : State) {c d : Ctx} (f : Frame) (e : ResultCode) (h : d ≠ c) :
    (finish c f e s).port d = s.port d := by
  cases c <;> cases d <;> first | rfl | exact absurd rfl h
theorem stat_finish (s : State) (c : Ctx) (f : Frame) (e : ResultCode) :
    ((finish c f e s).port c).stat = doneStat e f.n f.bp (s.port c).stat.ovr := by cases c <;> rfl
theorem cmd_finish (s : State) (c : Ctx) (f : Frame) (e : ResultCode) : ((finish c f e s).port c).cmd = (s.port c).cmd := by
  cases c <;> rfl
theorem port_setRegs (s : State) (r : HostRegs) (c : Ctx) : (s.setRegs r).port c = s.port c := by cases c <;> rfl
theorem port_setCtrl (s : State) (k : Ctrl) (c : Ctx) : (s.setCtrl k).port c = s.port c := by cases c <;> rfl
theorem port_setCtrlAt (s : State) (d : BitVec 8) (k : Ctrl) (c : Ctx) : (s.setCtrlAt d k).port c = s.port c := by
  cases c <;> rfl
theorem port_memWrite (s : State) (a : Nat) (v : Word) (c : Ctx) : (memWrite s a v).port c = s.port c := by cases c <;> rfl
theorem port_drawn (s : State) (c : Ctx) : s.drawn.port c = s.port c := by cases c <;> rfl
theorem port_onReceived (s : State) (m : RxMsg) (c : Ctx) : (onReceived m s).port c = s.port c := by cases c <;> rfl

/-! Controllers. -/

@[simp] theorem ctrlAt_setCtrlAt_same (s : State) (d : BitVec 8) (k : Ctrl) : (s.setCtrlAt d k).ctrlAt d = k := by
  simp [State.ctrlAt, State.setCtrlAt]
@[simp] theorem ctrlAt_setCtrlAt_other (s : State) {d e : BitVec 8} (k : Ctrl) (h : e ≠ d) :
    (s.setCtrlAt d k).ctrlAt e = s.ctrlAt e := by
  have : d.toNat ≠ e.toNat := fun h' => h (BitVec.eq_of_toNat_eq h'.symm)
  simp [State.ctrlAt, State.setCtrlAt, this]
theorem ctrlAt_setCtrlAt (s : State) (d e : BitVec 8) (k : Ctrl) :
    (s.setCtrlAt d k).ctrlAt e = if e = d then k else s.ctrlAt e := by
  split
  · next h => subst h; simp
  · next h => simp [h]
@[simp] theorem ctrl_setCtrl (s : State) (k : Ctrl) : (s.setCtrl k).ctrl = k := ctrlAt_setCtrlAt_same s _ k
theorem ctrl_setPort (s : State) (c : Ctx) (p : Port) : (s.setPort c p).ctrl = s.ctrl := by cases c <;> rfl
theorem ctrl_memWrite (s : State) (a : Nat) (v : Word) : (memWrite s a v).ctrl = s.ctrl := rfl
theorem ctrl_drawn (s : State) : s.drawn.ctrl = s.ctrl := rfl
theorem ctrl_setRegs (s : State) (r : HostRegs) (h : r.cstate.dev = s.regs.cstate.dev) : (s.setRegs r).ctrl = s.ctrl := by
  simp [State.ctrl, State.ctrlAt, State.setRegs, h]

end Sys2Proof.Machine
end

