-- ==== Sys2Proof/Laws/Memory.lean ====
section
/-! SUPPORT. The laws of the message RAM: every operation keeps the canonical form, a read after a write to the same
place gives the value written, and a write leaves every other place alone. -/

namespace Sys2Proof

namespace Memory

/-- A memory canonical from `hi` on is canonical from any lower address on. -/
theorem wfFrom_mono {lo hi : Nat} {m : Memory} (h : lo ≤ hi) (hm : wfFrom hi m = true) : wfFrom lo m = true := by
  cases m with
  | nil => rfl
  | cons c rest =>
    obtain ⟨a, b⟩ := c
    simp only [wfFrom, Bool.and_eq_true, decide_eq_true_eq] at hm ⊢
    exact ⟨⟨h.trans hm.1.1, hm.1.2⟩, hm.2⟩

/-- Below the first address a canonical memory reads as unlisted. -/
theorem load_below {lo k : Nat} {m : Memory} (hm : wfFrom lo m = true) (h : k < lo) : m.load k = unlisted := by
  induction m generalizing lo with
  | nil => rfl
  | cons c rest ih =>
    obtain ⟨a, b⟩ := c
    simp only [wfFrom, Bool.and_eq_true, decide_eq_true_eq] at hm
    have : k ≠ a := by omega
    simp only [load, this, if_false]
    exact ih hm.2 (by omega)

/-- A store keeps the canonical form. -/
theorem store_wfFrom {lo : Nat} {m : Memory} (k : Nat) (v : Byte) (hm : wfFrom lo m = true) (h : lo ≤ k) :
    wfFrom lo (m.store k v) = true := by
  induction m generalizing lo with
  | nil =>
    by_cases hv : v = unlisted
    · simp [store, hv, wfFrom]
    · simp [store, hv, wfFrom, h]
  | cons c rest ih =>
    obtain ⟨a, b⟩ := c
    simp only [wfFrom, Bool.and_eq_true, decide_eq_true_eq, bne_iff_ne, ne_eq] at hm
    obtain ⟨⟨h1, h2⟩, h3⟩ := hm
    unfold store
    by_cases hka : k < a
    · by_cases hv : v = unlisted
      · simp [hka, hv, wfFrom, h1, h2, h3]
      · simp [hka, hv, wfFrom, h, h2, h3]
    · by_cases hk : k = a
      · by_cases hv : v = unlisted
        · simp [hk, hv, wfFrom_mono (by omega : lo ≤ a + 1) h3]
        · simp [hk, hv, wfFrom, h1, h3]
      · simp only [hka, hk, if_false, wfFrom, Bool.and_eq_true, decide_eq_true_eq, bne_iff_ne, ne_eq]
        exact ⟨⟨h1, h2⟩, ih h3 (by omega)⟩

/-- A store keeps the canonical form. -/
theorem store_wf {m : Memory} (k : Nat) (v : Byte) (hm : wf m = true) : wf (m.store k v) = true :=
  store_wfFrom k v hm (Nat.zero_le k)

/-- What a byte reads as after a store, in a memory canonical from `lo` on. -/
theorem load_store_from {lo : Nat} {m : Memory} (k : Nat) (v : Byte) (x : Nat) (hm : wfFrom lo m = true) :
    (m.store k v).load x = if x = k then v else m.load x := by
  induction m generalizing lo with
  | nil => by_cases hv : v = unlisted <;> by_cases hx : x = k <;> simp [store, load, hv, hx]
  | cons c rest ih =>
    obtain ⟨a, b⟩ := c
    simp only [wfFrom, Bool.and_eq_true, decide_eq_true_eq, bne_iff_ne, ne_eq] at hm
    obtain ⟨⟨h1, h2⟩, h3⟩ := hm
    unfold store
    by_cases hka : k < a
    · by_cases hv : v = unlisted
      · simp only [hka, hv, if_true]
        by_cases hx : x = k
        · subst hx
          have : x ≠ a := by omega
          simp [load, this, load_below h3 (by omega : x < a + 1)]
        · simp [hx]
      · simp only [hka, hv, if_true, if_false]
        by_cases hx : x = k <;> simp [load, hx]
    · by_cases hk : k = a
      · subst hk
        by_cases hv : v = unlisted
        · simp only [hv, if_true]
          by_cases hx : x = k
          · subst hx; simp [load_below h3 (by omega : x < x + 1)]
          · simp [load, hx]
        · by_cases hx : x = k <;> simp [hv, load, hx]
      · simp only [hka, hk, if_false, load]
        by_cases hx : x = a
        · subst hx
          have : ¬ x = k := fun h => hk h.symm
          simp [this]
        · simp [hx, ih h3]

/-- What a byte reads as after a store. -/
theorem load_store {m : Memory} (k : Nat) (v : Byte) (x : Nat) (hm : wf m = true) :
    (m.store k v).load x = if x = k then v else m.load x :=
  load_store_from k v x hm

/-- A word store keeps the canonical form. -/
theorem storeWord_wf {m : Memory} (a : Nat) (v : Word) (hm : wf m = true) : wf (m.storeWord a v) = true :=
  store_wf _ _ (store_wf _ _ (store_wf _ _ (store_wf _ _ hm)))

/-- What a byte reads as after a word store. -/
theorem load_storeWord {m : Memory} (a : Nat) (v : Word) (x : Nat) (hm : wf m = true) :
    (m.storeWord a v).load x =
      if x = a + 3 then Machine.byteOf v 3 else if x = a + 2 then Machine.byteOf v 2
      else if x = a + 1 then Machine.byteOf v 1 else if x = a then Machine.byteOf v 0 else m.load x := by
  have h0 := store_wf a (Machine.byteOf v 0) hm
  have h1 := store_wf (a + 1) (Machine.byteOf v 1) h0
  have h2 := store_wf (a + 2) (Machine.byteOf v 2) h1
  simp only [storeWord, load_store _ _ _ h2, load_store _ _ _ h1, load_store _ _ _ h0, load_store _ _ _ hm]

/-- A word store leaves every byte outside the word alone. -/
theorem load_storeWord_outside {m : Memory} {a x : Nat} (v : Word) (hm : wf m = true) (h : Machine.outsideWord a x) :
    (m.storeWord a v).load x = m.load x := by
  rw [load_storeWord a v x hm]
  unfold Machine.outsideWord at h
  repeat rw [if_neg (by omega)]

/-- The four bytes of a word make the word. -/
theorem wordOf_byteOf (v : Word) :
    Machine.wordOf (Machine.byteOf v 0) (Machine.byteOf v 1) (Machine.byteOf v 2) (Machine.byteOf v 3) = v := by
  apply BitVec.eq_of_getLsbD_eq
  intro i hi
  simp only [Machine.wordOf, Machine.byteOf, BitVec.getLsbD_append, BitVec.getLsbD_extractLsb']
  by_cases h8 : i < 8
  · simp [h8]
  · by_cases h16 : i - 8 < 8
    · simp [h8, h16, show 8 * 1 + (i - 8) = i by omega]
    · by_cases h24 : i - 8 - 8 < 8
      · simp [h8, h16, h24, show 8 * 2 + (i - 8 - 8) = i by omega]
      · simp [h8, h16, h24, show 8 * 3 + (i - 8 - 8 - 8) = i by omega]; omega

/-- A word read where a word was stored is that word. -/
theorem loadWord_storeWord_same {m : Memory} (a : Nat) (v : Word) (hm : wf m = true) :
    (m.storeWord a v).loadWord a = v := by
  simp only [loadWord, load_storeWord _ _ _ hm]
  simp only [Nat.add_left_cancel_iff, Nat.reduceEqDiff, if_true, if_false, Nat.left_eq_add, OfNat.ofNat_ne_zero, one_ne_zero]
  exact wordOf_byteOf v

/-- A word store leaves every word it does not meet alone. -/
theorem loadWord_storeWord_other {m : Memory} {a b : Nat} (v : Word) (hm : wf m = true) (h : b + 4 ≤ a ∨ a + 4 ≤ b) :
    (m.storeWord a v).loadWord b = m.loadWord b := by
  unfold loadWord
  repeat rw [load_storeWord_outside v hm (by unfold Machine.outsideWord; omega)]

end Memory

end Sys2Proof
end

