-- ==== Sys2Proof/Laws/Ops.lean ====
section
/-! SUPPORT. What each shared operation can do, said once: the current frame, completion, acceptance, the device port,
the sub-procedures, the collaborators. -/

namespace Sys2Proof.Machine

/-! The current frame. -/

/-- The current context holds the current frame. -/
theorem current_some {s : State} {c : Ctx} {f : Frame} (h : s.current = some (c, f)) :
    s.nextCtx = some c ∧ s.frame c = some f := by
  unfold State.current at h
  split at h
  · next d hd =>
    rw [Option.map_eq_some_iff] at h
    obtain ⟨g, hg, he⟩ := h
    cases he
    exact ⟨hd, hg⟩
  · cases h

/-- The context that steps holds a frame (R42). -/
theorem nextCtx_frame {s : State} {c : Ctx} (h : s.nextCtx = some c) : ∃ f, s.frame c = some f := by
  unfold State.nextCtx at h
  split at h
  · next f hf _ => cases h; exact ⟨f, hf⟩
  · next f g hf hg =>
    split at h <;> cases h
    · exact ⟨g, hg⟩
    · exact ⟨f, hf⟩
  · next f _ hf => cases h; exact ⟨f, hf⟩
  · cases h

/-- Nothing steps exactly when neither port holds a frame (R42). -/
theorem current_none {s : State} : s.current = none ↔ s.fgPort.frame = none ∧ s.isPort.frame = none := by
  constructor
  · intro h
    unfold State.current at h
    split at h
    · next c hc =>
      obtain ⟨f, hf⟩ := nextCtx_frame hc
      simp [hf] at h
    · next hc =>
      unfold State.nextCtx at hc
      split at hc
      · cases hc
      · split at hc <;> cases hc
      · cases hc
      · next h1 h2 => exact ⟨h2, h1⟩
  · rintro ⟨h1, h2⟩
    simp [State.current, State.nextCtx, h1, h2]

/-- With no IS frame, the FG frame steps. -/
theorem current_fg {s : State} {f : Frame} (h1 : s.isPort.frame = none) (h2 : s.fgPort.frame = some f) :
    s.current = some (.fg, f) := by
  simp [State.current, State.nextCtx, h1, h2]

/-- An IS frame steps unless the FG frame is in its critical section (R42). -/
theorem current_is {s : State} {f : Frame} (h1 : s.isPort.frame = some f)
    (h2 : ∀ g, s.fgPort.frame = some g → g.crit = false) : s.current = some (.is, f) := by
  unfold State.current State.nextCtx
  cases h : s.fgPort.frame with
  | none => simp [h1]
  | some g => simp [h1, h2 g h]

/-- A meaning is the step of the current frame. -/
theorem withFrame_current {s : State} {k : Ctx → Frame → Result} {c : Ctx} {f : Frame} (h : s.current = some (c, f)) :
    withFrame s k = k c f := by simp [withFrame, h]

/-- A meaning that answers a next state is a step of the current frame. -/
theorem withFrame_next {s t : State} {k : Ctx → Frame → Result} (h : withFrame s k = .next t) :
    ∃ c f, s.current = some (c, f) ∧ k c f = .next t := by
  unfold withFrame at h
  split at h
  · next c f hc => exact ⟨c, f, hc, h⟩
  · cases h

/-! The device port. -/

/-- A configuration write in configuration mode takes effect (R132). -/
theorem writeConfig_config {s : State} (k : Ctrl) (h : s.ctrl.configMode = true) : writeConfig s k = s.setCtrl k := by
  simp [writeConfig, h]

/-- Everything a configuration write can do (R132, U4). -/
theorem writeConfig_cases (s : State) (k : Ctrl) :
    writeConfig s k = s.setCtrl k ∨ writeConfig s k = (s.setCtrl k).drawn ∨ writeConfig s k = s.drawn := by
  unfold writeConfig
  split
  · exact .inl rfl
  · split
    · exact .inr (.inl rfl)
    · exact .inr (.inr rfl)

/-- Everything a device write can do outside the controller it reaches: it draws free values, or nothing. -/
theorem devWrite_shape (w : DevWrite) (s : State) :
    ∃ k n, devWrite w s = { s.setCtrl k with free := s.free + n } := by
  have keep : s = { s.setCtrl s.ctrl with free := s.free + 0 } := by
    simp [State.setCtrl, State.setCtrlAt, State.ctrl, State.ctrlAt]
  have one : ∀ k, ∃ k' n, writeConfig s k = { s.setCtrl k' with free := s.free + n } := by
    intro k
    rcases writeConfig_cases s k with h | h | h
    · exact ⟨k, 0, h⟩
    · exact ⟨k, 1, h⟩
    · exact ⟨s.ctrl, 1, by rw [h]; simp [State.drawn, State.setCtrl, State.setCtrlAt, State.ctrl, State.ctrlAt]⟩
  cases w with
  | btr r => exact one _
  | gfc r => exact one _
  | fltc r => exact one _
  | rxc r => exact one _
  | txc r => exact one _
  | txec r => exact one _
  | mode r => exact ⟨_, 0, rfl⟩
  | ie r => exact ⟨_, 0, rfl⟩
  | ils r => exact ⟨_, 0, rfl⟩
  | ir r => exact ⟨_, 0, rfl⟩
  | rxa i =>
    simp only [devWrite, ackRx]
    split
    · exact ⟨_, 0, rfl⟩
    · exact ⟨_, 2, rfl⟩
  | txea i =>
    simp only [devWrite, ackTxe]
    split
    · exact ⟨_, 0, rfl⟩
    · exact ⟨_, 2, rfl⟩
  | txrq b =>
    simp only [devWrite, ringDoorbell]
    split
    · exact ⟨s.ctrl, 0, keep⟩
    · split
      · exact ⟨_, 0, rfl⟩
      · exact ⟨_, 1, rfl⟩

@[simp] theorem devWrite_cfg (w : DevWrite) (s : State) : (devWrite w s).cfg = s.cfg := by
  obtain ⟨k, n, h⟩ := devWrite_shape w s; rw [h]; rfl
@[simp] theorem devWrite_regs (w : DevWrite) (s : State) : (devWrite w s).regs = s.regs := by
  obtain ⟨k, n, h⟩ := devWrite_shape w s; rw [h]; rfl
@[simp] theorem devWrite_fgPort (w : DevWrite) (s : State) : (devWrite w s).fgPort = s.fgPort := by
  obtain ⟨k, n, h⟩ := devWrite_shape w s; rw [h]; rfl
@[simp] theorem devWrite_isPort (w : DevWrite) (s : State) : (devWrite w s).isPort = s.isPort := by
  obtain ⟨k, n, h⟩ := devWrite_shape w s; rw [h]; rfl
@[simp] theorem devWrite_mem (w : DevWrite) (s : State) : (devWrite w s).mem = s.mem := by
  obtain ⟨k, n, h⟩ := devWrite_shape w s; rw [h]; rfl
@[simp] theorem devWrite_source (w : DevWrite) (s : State) : (devWrite w s).source = s.source := by
  obtain ⟨k, n, h⟩ := devWrite_shape w s; rw [h]; rfl
@[simp] theorem devWrite_consumer (w : DevWrite) (s : State) : (devWrite w s).consumer = s.consumer := by
  obtain ⟨k, n, h⟩ := devWrite_shape w s; rw [h]; rfl
@[simp] theorem devWrite_clock (w : DevWrite) (s : State) : (devWrite w s).clock = s.clock := by
  obtain ⟨k, n, h⟩ := devWrite_shape w s; rw [h]; rfl
@[simp] theorem devWrite_sched (w : DevWrite) (s : State) : (devWrite w s).sched = s.sched := by
  obtain ⟨k, n, h⟩ := devWrite_shape w s; rw [h]; rfl

/-- A device write reaches only the controller `CSTATE.dev` selects (R45). -/
theorem devWrite_otherCtrl (w : DevWrite) (s : State) {d : BitVec 8} (h : d ≠ s.regs.cstate.dev) :
    (devWrite w s).ctrlAt d = s.ctrlAt d := by
  obtain ⟨k, n, he⟩ := devWrite_shape w s
  rw [he]
  exact ctrlAt_setCtrlAt_other s k h

/-- An acknowledge within the contract (R134). -/
theorem ackRx_contract {s : State} {i : Nat} (h : i = s.ctrl.rxGet) (hf : 0 < s.ctrl.rxFill) :
    ackRx s i = s.setCtrl
      { s.ctrl with rxGet := (s.ctrl.rxGet + 1) % s.ctrl.rxc.count, rxFill := s.ctrl.rxFill - 1 } := by
  simp [ackRx, h, hf]

/-- The TX-event acknowledge within the contract (R138). -/
theorem ackTxe_contract {s : State} {i : Nat} (h : i = s.ctrl.txeGet) (hf : 0 < s.ctrl.txeFill) :
    ackTxe s i = s.setCtrl
      { s.ctrl with txeGet := (s.ctrl.txeGet + 1) % s.ctrl.txec.count, txeFill := s.ctrl.txeFill - 1 } := by
  simp [ackTxe, h, hf]

/-- With a slot left, `freeSlot` is a free slot of the ring. -/
theorem Ctrl.freeSlot_free {k : Ctrl} (h : k.txReq.length < k.txc.count) :
    k.freeSlot < k.txc.count ∧ k.freeSlot ∉ k.txReq := by
  unfold Ctrl.freeSlot
  generalize hl : (List.range k.txc.count).map (fun j => (k.txPut + j) % k.txc.count) = l
  cases hp : l.find? (fun i => !k.txReq.contains i) with
  | some i =>
    have hm := List.mem_of_find?_eq_some hp
    have hc := List.find?_some hp
    rw [← hl, List.mem_map] at hm
    obtain ⟨j, -, rfl⟩ := hm
    exact ⟨Nat.mod_lt _ (by omega), by simpa using hc⟩
  | none =>
    exfalso
    have hsub : l ⊆ k.txReq := fun i hi => by
      have := List.find?_eq_none.mp hp i hi
      simpa using this
    have hnd : l.Nodup := by
      rw [← hl]
      refine (List.nodup_range).map_on (fun a ha b hb hab => ?_)
      have ha' := List.mem_range.mp ha
      have hb' := List.mem_range.mp hb
      have := Nat.ModEq.add_left_cancel' (n := k.txc.count) k.txPut hab
      rwa [Nat.ModEq, Nat.mod_eq_of_lt ha', Nat.mod_eq_of_lt hb'] at this
    have := (hnd.subperm hsub).length_le
    rw [← hl, List.length_map, List.length_range] at this
    omega

/-- Everything `settled` can do: nothing, or move a `tx_put` that names a requested slot of a ring that is not full. -/
theorem Ctrl.settled_cases (k : Ctrl) :
    ((k.txReq.length < k.txc.count → k.txPut ∉ k.txReq) ∧ k.settled = k) ∨
    (k.txReq.length < k.txc.count ∧ k.txPut ∈ k.txReq ∧ k.settled = { k with txPut := k.freeSlot }) := by
  unfold Ctrl.settled
  split
  · next h => exact .inr ⟨h.1, h.2, rfl⟩
  · next h => exact .inl ⟨fun hl hm => h ⟨hl, hm⟩, rfl⟩

/-- A `tx_put` that names a free slot stays. -/
theorem Ctrl.settled_of_free {k : Ctrl} (h : k.txPut ∉ k.txReq) : k.settled = k := if_neg fun hc => h hc.2

/-- After `settled`, `tx_put` is a free slot of a ring that is not full (R68). -/
theorem Ctrl.settled_free (k : Ctrl) (h : k.txReq.length < k.txc.count) : k.settled.txPut ∉ k.txReq := by
  rcases k.settled_cases with ⟨hf, he⟩ | ⟨_, _, he⟩
  · rw [he]; exact hf h
  · rw [he]; exact (Ctrl.freeSlot_free h).2

/-- A doorbell within the contract (R136). -/
theorem ringDoorbell_contract {s : State} {bits : Word} (h0 : bits ≠ 0) (h : s.ctrl.doorbellOk bits = true) :
    ringDoorbell s bits = s.setCtrl (Ctrl.settled
      { s.ctrl with txReq := s.ctrl.txReq ++ [s.ctrl.txPut], txPut := (s.ctrl.txPut + 1) % s.ctrl.txc.count }) := by
  unfold ringDoorbell
  rw [if_neg h0, if_pos h]

/-! The sub-procedures. -/

/-- What `ReadPsr` does (R337). -/
theorem psr1_eq (s : State) :
    psr1 s = (s.setCtrl { s.ctrl with psr := { s.ctrl.psr with lec := 7 } }).setRegs
      { s.regs with
        cstate :=
          { s.regs.cstate with
            warning := s.ctrl.psr.warning
            busOff := s.ctrl.psr.busOff
            health := healthOf s.ctrl.psr.warning s.ctrl.psr.busOff }
        errs := countLec s.cfg s.ctrl.psr.lec s.regs.errs } := rfl

/-- What `ReadEcr` does on a variant that clears on read (R343). -/
theorem ecr1_clear {s : State} (h : s.cfg.ecrClearOnRead = true) :
    ecr1 s = (s.setCtrl { s.ctrl with ecr := { s.ctrl.ecr with cel := 0 } }).setRegs
      { s.regs with
        recv := s.ctrl.ecr.recv
        tec := s.ctrl.ecr.tec
        errLog := s.regs.errLog + s.ctrl.ecr.cel.setWidth 32 } := by
  simp [ecr1, readEcr, Ctrl.ecrTaken, h]

/-- What `ReadEcr` does on a variant that does not clear on read (R343). -/
theorem ecr1_mirror {s : State} (h : s.cfg.ecrClearOnRead = false) :
    ecr1 s = s.setRegs
      { s.regs with
        recv := s.ctrl.ecr.recv
        tec := s.ctrl.ecr.tec
        errLog := s.ctrl.ecr.cel.setWidth 32 } := by
  simp [ecr1, readEcr, Ctrl.ecrTaken, h, State.setCtrl, State.setCtrlAt, State.ctrl, State.ctrlAt]

/-- `ReadEcr` touches one controller and the registers. -/
theorem ecr1_shape (s : State) : ∃ k r, ecr1 s = (s.setCtrl k).setRegs r := by
  by_cases h : s.cfg.ecrClearOnRead = true
  · exact ⟨_, _, ecr1_clear h⟩
  · refine ⟨s.ctrl, (ecr1 s).regs, ?_⟩
    rw [ecr1_mirror (by simpa using h), show s.setCtrl s.ctrl = s by
      simp [State.setCtrl, State.setCtrlAt, State.ctrl, State.ctrlAt]]
    rfl

/-- What `Rc.3` does (R322): back to the retry label on a dirty bracket, else on. -/
theorem rc3_cases (c : Ctx) (f : Frame) (retry : Label) (on : Frame → State → State) (s : State) :
    (s.cfg.tsBracketMax < (s.clock - f.loc.t0).toNat ∧
      rc3 c f retry on s = goto c { f with loc := { f.loc with t1 := s.clock } } retry s) ∨
    ((s.clock - f.loc.t0).toNat ≤ s.cfg.tsBracketMax ∧
      rc3 c f retry on s = on { f with loc := { f.loc with t1 := s.clock } } s) := by
  unfold rc3 dirtyBracket
  by_cases h : s.cfg.tsBracketMax < (s.clock - f.loc.t0).toNat
  · exact .inl ⟨h, if_pos (decide_eq_true h)⟩
  · exact .inr ⟨by omega, if_neg (by rw [decide_eq_true_eq]; exact h)⟩

/-- What `TakeOutgoing` does (`00_scope.md` R17). -/
theorem takeOutgoing_cases (s : State) :
    (∃ m rest, s.source = m :: rest ∧ takeOutgoing s = (m, { s with source := rest })) ∨
    (s.source = [] ∧ takeOutgoing s = (Config.freeMessage s.free, s.drawn)) := by
  unfold takeOutgoing
  cases s.source with
  | nil => exact .inr ⟨rfl, rfl⟩
  | cons m rest => exact .inl ⟨m, rest, rfl, rfl⟩

/-! Acceptance and the host port. -/

/-- Everything the acceptance step can do (`30_encoding.md` R161). -/
theorem accept_cases (c : Ctx) (w : Word) (s : State) :
    (∃ e, decode w = .error e ∧ accept c w s = refuseCommand c .illCmd (latchCommand c w s)) ∨
    (∃ i, decode w = .ok i ∧ c = .is ∧ isAdmitted i = false ∧
      accept c w s = refuseCommand c .ctx (latchCommand c w s)) ∨
    (∃ i, decode w = .ok i ∧ (c = .is → isAdmitted i = true) ∧ s.regs.cstate.inst = false ∧ noInstAdmitted i = false ∧
      accept c w s = refuseCommand c .noInst (latchCommand c w s)) ∨
    (∃ i, decode w = .ok i ∧ (c = .is → isAdmitted i = true) ∧
      (s.regs.cstate.inst = false → noInstAdmitted i = true) ∧
      accept c w s = startCommand c i (latchCommand c w s)) := by
  unfold accept
  cases hd : decode w with
  | error e => exact .inl ⟨e, rfl, rfl⟩
  | ok i =>
    refine .inr ?_
    by_cases h1 : c = .is ∧ isAdmitted i = false
    · exact .inl ⟨i, rfl, h1.1, h1.2, by simp [h1]⟩
    · have h1' : c = .is → isAdmitted i = true := fun hc => by
        by_contra hn; exact h1 ⟨hc, by simpa using hn⟩
      by_cases h2 : s.regs.cstate.inst = false ∧ noInstAdmitted i = false
      · exact .inr (.inl ⟨i, rfl, h1', h2.1, h2.2, by simp [h1, h2]⟩)
      · have h2' : s.regs.cstate.inst = false → noInstAdmitted i = true := fun hc => by
          by_contra hn; exact h2 ⟨hc, by simpa using hn⟩
        exact .inr (.inr ⟨i, rfl, h1', h2', by simp [h1, h2]⟩)

/-- A submission touches its own port only. -/
theorem submit_shape (c : Ctx) (w : Word) (s : State) : ∃ p, submit c w s = s.setPort c p := by
  unfold submit
  split
  · exact ⟨_, rfl⟩
  · rcases accept_cases c w s with ⟨e, -, h⟩ | ⟨i, -, -, -, h⟩ | ⟨i, -, -, -, -, h⟩ | ⟨i, -, -, -, h⟩ <;>
    rw [h] <;> cases c <;> exact ⟨_, rfl⟩

/-- Everything a host write can do: submit a command, change a parameter register, or nothing (R52, R34). -/
theorem hostWrite_shape (s : State) (off bytes : Nat) (v : Word) :
    (∃ c, hostWrite s off bytes v = submit c v s) ∨
    (∃ a b d e, hostWrite s off bytes v = s.setRegs { s.regs with pClock := a, pRate := b, pSp := d, pRj := e }) ∨
    hostWrite s off bytes v = s := by
  unfold hostWrite
  split
  · unfold hostWriteReg
    split
    · exact .inl ⟨.fg, rfl⟩
    · exact .inl ⟨.is, rfl⟩
    · exact .inr (.inl ⟨_, _, _, _, rfl⟩)
    · exact .inr (.inl ⟨_, _, _, _, rfl⟩)
    · exact .inr (.inl ⟨_, _, _, _, rfl⟩)
    · exact .inr (.inl ⟨_, _, _, _, rfl⟩)
    · exact .inr (.inr rfl)
  · exact .inr (.inr rfl)

/-! The controllers' own steps. -/

/-- Everything the arrival of a frame can do: nothing, the frame dropped, or the frame held with its stamp. -/
theorem Ctrl.receive_cases (cfg : Cfg) (mem : Memory) (k : Ctrl) (f : BusFrame) :
    (k.mode.init = true ∧ k.receive cfg mem f = k) ∨
    (k.mode.init = false ∧ (accepts cfg mem k f = false ∨ k.rxTarget = none) ∧ k.receive cfg mem f = k.transferred) ∨
    (k.mode.init = false ∧ accepts cfg mem k f = true ∧ k.rxTarget ≠ none ∧
      k.receive cfg mem f = { k.transferred with rxHeld := k.rxHeld ++ [(f, k.tscnt)] }) := by
  unfold Ctrl.receive
  cases k.mode.init <;> cases accepts cfg mem k f <;> cases k.rxTarget <;> simp

/-- Everything the storing of an accepted frame can do: nothing, the oldest one stored, or the oldest one discarded. -/
theorem deliver_cases (s : State) (d : BitVec 8) :
    deliver s d = s ∨
    ∃ f ts rest, (s.ctrlAt d).mode.init = false ∧ (s.ctrlAt d).rxHeld = (f, ts) :: rest ∧
      ((∃ i, (s.ctrlAt d).rxTarget = some i ∧ deliver s d =
          { s.setCtrlAt d { (s.ctrlAt d).afterArrival f with rxHeld := rest } with
            mem := storeRxSlot s.cfg s.mem (s.ctrlAt d) f ts i }) ∨
        ((s.ctrlAt d).rxTarget = none ∧ deliver s d = s.setCtrlAt d { s.ctrlAt d with rxHeld := rest })) := by
  unfold deliver
  dsimp only
  split
  · next f ts rest hi hh =>
    refine .inr ⟨f, ts, rest, hi, hh, ?_⟩
    split
    · next i ht => exact .inl ⟨i, ht, rfl⟩
    · next ht => exact .inr ⟨ht, rfl⟩
  · exact .inl rfl

/-- A controller's step touches that controller and the message RAM only. -/
theorem controllerStep_shape (s : State) (d : BitVec 8) (e : CtrlEvent) :
    ∃ k m, controllerStep s d e = { s.setCtrlAt d k with mem := m } := by
  have keep : s = { s.setCtrlAt d (s.ctrlAt d) with mem := s.mem } := by simp [State.setCtrlAt, State.ctrlAt]
  unfold controllerStep
  split
  · cases e with
    | rxWord w =>
      simp only [receiveWord]
      split
      · next f ts _ i _ _ _ =>
        refine ⟨s.ctrlAt d, storeRxWord s.cfg s.mem (s.ctrlAt d) f ts i w, ?_⟩
        rw [show s.setCtrlAt d (s.ctrlAt d) = s by simp [State.setCtrlAt, State.ctrlAt]]
      · exact ⟨_, _, keep⟩
    | rxStore =>
      rcases deliver_cases s d with h | ⟨_, _, _, _, _, ⟨_, _, h⟩ | ⟨_, h⟩⟩
      · exact ⟨_, _, h.trans keep⟩
      · exact ⟨_, _, h⟩
      · exact ⟨_, _, h⟩
    | arrive f => exact ⟨_, _, rfl⟩
    | txSend i => exact ⟨_, _, rfl⟩
    | txDone j0 j1 =>
      simp only [transmit]
      split
      · split
        · exact ⟨_, _, rfl⟩
        · exact ⟨_, _, rfl⟩
      · exact ⟨_, _, keep⟩
    | lec code => exact ⟨_, _, rfl⟩
    | status a b => exact ⟨_, _, rfl⟩
    | counters a b => exact ⟨_, _, rfl⟩
    | celUp => exact ⟨_, _, rfl⟩
    | celDraw v => exact ⟨_, _, rfl⟩
    | tick => exact ⟨_, _, rfl⟩
    | stoppedCount v => exact ⟨_, _, rfl⟩
    | dropRequest i => exact ⟨_, _, rfl⟩
    | psrRead => exact ⟨_, _, rfl⟩
    | ecrRead => exact ⟨_, _, rfl⟩
    | outsideMode r => exact ⟨_, _, rfl⟩
    | outsideIr r => exact ⟨_, _, rfl⟩
  · exact ⟨_, _, keep⟩

/-! One step of the system. -/

/-- Everything a step can be, under a valid configuration: the sequencer's step or another agent's move, on the state
with that move taken off `sched`. -/
theorem step_cases {s : State} (h : s.cfg.valid = true) :
    ((nextMove s).1 = .seq ∧ step s = sequencerStep (nextMove s).2) ∨
    ((nextMove s).1 ≠ .seq ∧ step s = .next (agentMove (nextMove s).1 (nextMove s).2)) := by
  unfold step
  rw [if_pos h]
  rcases hm : nextMove s with ⟨m, t⟩
  cases m with
  | seq => exact .inl ⟨rfl, rfl⟩
  | hostWrite off bytes v => exact .inr ⟨by simp, rfl⟩
  | ctrl d e => exact .inr ⟨by simp, rfl⟩
  | source m => exact .inr ⟨by simp, rfl⟩
  | clock n => exact .inr ⟨by simp, rfl⟩
  | reset => exact .inr ⟨by simp, rfl⟩

/-- With nothing listed, a step is the sequencer's. -/
theorem step_quiet {s : State} (h : s.cfg.valid = true) (hq : s.sched = []) : step s = sequencerStep s := by
  simp [step, h, nextMove, hq]

/-- Taking a move off `sched` changes nothing else. -/
theorem nextMove_snd (s : State) : (nextMove s).2 = { s with sched := s.sched.tail } := by
  unfold nextMove
  split
  · next h => simp [h]; cases s; simp_all
  · next t rest h => simp [h]

/-- The sequencer runs the current frame's operation. -/
theorem sequencerStep_current {s : State} {c : Ctx} {f : Frame} (h : s.current = some (c, f)) :
    sequencerStep s = exec f.op s := by simp [sequencerStep, h]

end Sys2Proof.Machine
end

