-- ==== Sys2Proof/Laws/Exec.lean ====
section
/-! SUPPORT. What a step of an operation can be, seen from its port: one inversion lemma over all labels of all operations,
and that every label an operation owns answers a next state. -/

namespace Sys2Proof.Machine

@[simp] theorem takeOutgoing_cfg (s : State) : (takeOutgoing s).2.cfg = s.cfg := by
  rcases takeOutgoing_cases s with ⟨m, r, -, h⟩ | ⟨-, h⟩ <;> simp [h, State.drawn]
@[simp] theorem takeOutgoing_regs (s : State) : (takeOutgoing s).2.regs = s.regs := by
  rcases takeOutgoing_cases s with ⟨m, r, -, h⟩ | ⟨-, h⟩ <;> simp [h, State.drawn]
@[simp] theorem takeOutgoing_fgPort (s : State) : (takeOutgoing s).2.fgPort = s.fgPort := by
  rcases takeOutgoing_cases s with ⟨m, r, -, h⟩ | ⟨-, h⟩ <;> simp [h, State.drawn]
@[simp] theorem takeOutgoing_isPort (s : State) : (takeOutgoing s).2.isPort = s.isPort := by
  rcases takeOutgoing_cases s with ⟨m, r, -, h⟩ | ⟨-, h⟩ <;> simp [h, State.drawn]
@[simp] theorem takeOutgoing_ctrls (s : State) : (takeOutgoing s).2.ctrls = s.ctrls := by
  rcases takeOutgoing_cases s with ⟨m, r, -, h⟩ | ⟨-, h⟩ <;> simp [h, State.drawn]
@[simp] theorem takeOutgoing_mem (s : State) : (takeOutgoing s).2.mem = s.mem := by
  rcases takeOutgoing_cases s with ⟨m, r, -, h⟩ | ⟨-, h⟩ <;> simp [h, State.drawn]
@[simp] theorem takeOutgoing_consumer (s : State) : (takeOutgoing s).2.consumer = s.consumer := by
  rcases takeOutgoing_cases s with ⟨m, r, -, h⟩ | ⟨-, h⟩ <;> simp [h, State.drawn]
@[simp] theorem takeOutgoing_clock (s : State) : (takeOutgoing s).2.clock = s.clock := by
  rcases takeOutgoing_cases s with ⟨m, r, -, h⟩ | ⟨-, h⟩ <;> simp [h, State.drawn]
@[simp] theorem takeOutgoing_sched (s : State) : (takeOutgoing s).2.sched = s.sched := by
  rcases takeOutgoing_cases s with ⟨m, r, -, h⟩ | ⟨-, h⟩ <;> simp [h, State.drawn]

/-- `ReadEcr` touches `ECR` of one controller and three registers (R343). -/
theorem ecr1_fields (s : State) :
    ∃ k r e d, ecr1 s =
      (s.setCtrl { s.ctrl with ecr := k }).setRegs { s.regs with recv := r, tec := e, errLog := d } := by
  by_cases h : s.cfg.ecrClearOnRead = true
  · exact ⟨_, _, _, _, ecr1_clear h⟩
  · refine ⟨s.ctrl.ecr, (ecr1 s).regs.recv, (ecr1 s).regs.tec, (ecr1 s).regs.errLog, ?_⟩
    rw [ecr1_mirror (by simpa using h), show s.setCtrl { s.ctrl with ecr := s.ctrl.ecr } = s by
      have : ({ s.ctrl with ecr := s.ctrl.ecr } : Ctrl) = s.ctrl := rfl
      rw [this]
      simp [State.setCtrl, State.setCtrlAt, State.ctrl, State.ctrlAt]]
    rfl

@[simp] theorem payloadOrZero_op (f : Frame) (cfg : Cfg) : (f.payloadOrZero cfg).op = f.op := by
  unfold Frame.payloadOrZero; split <;> rfl
@[simp] theorem payloadOrZero_crit (f : Frame) (cfg : Cfg) : (f.payloadOrZero cfg).crit = f.crit := by
  unfold Frame.payloadOrZero; split <;> rfl
@[simp] theorem payloadOrZero_n (f : Frame) (cfg : Cfg) : (f.payloadOrZero cfg).n = f.n := by
  unfold Frame.payloadOrZero; split <;> rfl
@[simp] theorem payloadOrZero_bp (f : Frame) (cfg : Cfg) : (f.payloadOrZero cfg).bp = f.bp := by
  unfold Frame.payloadOrZero; split <;> rfl

/-- Everything a step is, seen from its port: the current frame ends with a result, or it goes on at a label of its own
operation, the rest of the step done before. -/
theorem exec_shape {i : Instr} {s t : State} (h : exec i s = .next t) :
    ∃ c f, s.current = some (c, f) ∧ owns i f.seq = true ∧
      ((∃ u g e, t = finish c g e u ∧ u.fgPort = s.fgPort ∧ u.isPort = s.isPort ∧ g.n = f.n ∧
          g.bp = (f.bp || f.seq == .htxX1) ∧
          (e = .ok ∨ (e = .badDev ∧ ∃ dev, i = .init dev ∧ s.cfg.numDev ≤ dev.toNat))) ∨
       (∃ u g l, t = goto c g l u ∧ u.fgPort = s.fgPort ∧ u.isPort = s.isPort ∧ g.op = f.op ∧ owns i l = true ∧
          (f.crit = f.seq.inCrit → g.crit = l.inCrit) ∧
          (l = .aaddS1 → u.regs.fcount.toNat < s.cfg.maxf))) := by
  obtain ⟨k, r, e, d, he⟩ := ecr1_fields s
  cases i <;> simp only [exec] at h <;> obtain ⟨c, f, hc, h⟩ := withFrame_next h <;> (try simp only [drainStep] at h)
  all_goals (try (split at h))
  all_goals try (cases h; done)
  all_goals try (split at h)
  all_goals try (cases h; done)
  all_goals try (simp only [Host.Outcome.next.injEq, rc3, afterEmpty] at h)
  all_goals try (split at h)
  all_goals try (split at h)
  all_goals subst h
  all_goals refine ⟨c, f, hc, by simp [*, owns, Label.isDrain], ?_⟩
  all_goals first
    | exact .inl ⟨_, _, _, rfl, by simp [dis2, clearEnabled, en1, runSolve, storeTimestamp, psr1_eq],
        by simp [dis2, clearEnabled, en1, runSolve, storeTimestamp, psr1_eq], rfl, by simp [*], .inl rfl⟩
    | exact .inl ⟨_, _, _, rfl, rfl, rfl, rfl, by simp [*], .inr ⟨rfl, _, rfl, by assumption⟩⟩
    | (refine .inr ⟨_, _, _, rfl, ?_, ?_, by simp [rc1, rc2, Frame.counted], ?_, ?_, ?_⟩
       · simp [dis1, dis2, clearEnabled, wbt1, wbt2, runSolve, zeroFilterWord, storeTimestamp, he]
       · simp [dis1, dis2, clearEnabled, wbt1, wbt2, runSolve, zeroFilterWord, storeTimestamp, he]
       · simp [owns, Label.isDrain]
       · simp [*, Label.inCrit, rc1, rc2, Frame.counted]
       · first
         | (intro hl; cases hl; done)
         | (intro _; exact Nat.lt_of_not_le (by assumption)))

/-- At every label its operation owns, a step answers a next state. -/
theorem exec_answers {i : Instr} {s : State} {c : Ctx} {f : Frame} (hc : s.current = some (c, f))
    (ho : owns i f.seq = true) : ∃ t, exec i s = .next t := by
  cases i <;>
    simp only [exec, execNop, execInit, execDisable, execEnable, execSolve, execSetspeed, execAclr, execAadd, execHtx,
      execHrx, execTsrec, execRpsr, execUpderr, execHtxe] <;>
    rw [withFrame_current hc] <;> cases hl : f.seq <;> simp [owns, hl, Label.isDrain] at ho <;> simp [drainStep, hl]
  all_goals (repeat' split) <;> simp

end Sys2Proof.Machine
end

