-- ==== Sys2Proof/Laws/PerInstr.lean ====
section
/-! SUPPORT. Facts about every instruction as syntax, one lemma per constructor: its encoding meets its own row of the
match and mask table (`30_encoding.md` R153). -/

namespace Sys2Proof.Laws.Row

/-- The encoding of `i` meets the row of `i` (R153). -/
def Statement (i : Instr) : Prop := encode i &&& rowMask i = rowMatch i

theorem nop : Statement .nop := by unfold Statement; decide
theorem disable : Statement .disable := by unfold Statement; decide
theorem enable : Statement .enable := by unfold Statement; decide
theorem solve : Statement .solve := by unfold Statement; decide
theorem setspeed : Statement .setspeed := by unfold Statement; decide
theorem aclr : Statement .aclr := by unfold Statement; decide
theorem htx : Statement .htx := by unfold Statement; decide
theorem hrx : Statement .hrx := by unfold Statement; decide
theorem rpsr : Statement .rpsr := by unfold Statement; decide
theorem upderr : Statement .upderr := by unfold Statement; decide
theorem htxe : Statement .htxe := by unfold Statement; decide

theorem init (dev : BitVec 8) : Statement (.init dev) := by
  unfold Statement encode rowMask rowMatch
  ext i hi
  simp only [BitVec.getElem_and, BitVec.getElem_append]
  interval_cases i <;> simp

theorem aadd (id mask : BitVec 11) : Statement (.aadd id mask) := by
  unfold Statement encode rowMask rowMatch
  ext i hi
  simp only [BitVec.getElem_and, BitVec.getElem_append]
  interval_cases i <;> simp

theorem tsrec (ts : BitVec 16) : Statement (.tsrec ts) := by
  unfold Statement encode rowMask rowMatch
  ext i hi
  simp only [BitVec.getElem_and, BitVec.getElem_append]
  interval_cases i <;> simp

end Sys2Proof.Laws.Row
end

