-- ==== Sys2Proof/Tests/Slice0.lean ====
section
/-! SUPPORT. Tests of one step each, with results taken from the worked examples of `spec/` or computed by hand from its
rules, and for every statement with hypotheses a witness that meets them. -/

namespace Sys2Proof.Tests

open Sys2Proof Sys2Proof.Machine

/-! Well-formedness (`30_encoding.md` R165; configurations: `00_scope.md` R12, `20_memory.md` R112). -/

theorem test_wf_init : AsmCmd.wellFormed (.init 256) = false ∧ AsmCmd.word (.init 256) = none := by decide
theorem test_wf_aadd_id : AsmCmd.wellFormed (.aadd 0x800 0) = false ∧ AsmCmd.word (.aadd 0x800 0) = none := by decide
theorem test_wf_aadd_mask : AsmCmd.wellFormed (.aadd 0 0x800) = false ∧ AsmCmd.word (.aadd 0 0x800) = none := by decide
theorem test_wf_tsrec : AsmCmd.wellFormed (.tsrec 0x10000) = false ∧ AsmCmd.word (.tsrec 0x10000) = none := by decide
theorem test_wf_accept : AsmCmd.wellFormed (.accept 0x800) = false ∧ AsmCmd.word (.accept 0x800) = none := by decide
theorem test_wf_edges : AsmCmd.word (.init 255) = some 0x100000FF ∧ AsmCmd.word (.aadd 0x7FF 0x7FF) = some 0x77FF07FF ∧
    AsmCmd.word (.tsrec 0xFFFF) = some 0xA000FFFF := by decide
theorem test_cfg_reference : Cfg.reference.valid = true := by decide
theorem test_cfg_bad_ranges : ({ Cfg.reference with txd := 33 }).valid = false ∧
    ({ Cfg.reference with numDev := 0 }).valid = false ∧
    ({ Cfg.reference with rxOwnTx := true, txed := 0 }).valid = false := by decide
theorem test_cfg_bad_alignment : ({ Cfg.reference with align := 6 }).valid = false := by decide
theorem test_cfg_bad_lec_map :
    ({ Cfg.reference with lecMap := #v[.stuff, .stuff, .ack, .bit0, .bit1, .crc] }).valid = false := by decide
theorem test_cfg_bad_pack :
    ({ Cfg.reference with pack := .layout { BitLayout.reference with fltId := 20 } }).valid = false ∧
    ({ Cfg.reference with pack := .layout { BitLayout.reference with toRxCode := 0 } }).valid = false ∧
    ({ Cfg.reference with prescMax := 513 }).valid = false := by decide
/-- U20 asks nothing of the register offsets: two registers at one offset are no reason to refuse. -/
theorem test_cfg_shared_offset :
    ({ Cfg.reference with
        pack := .layout { BitLayout.reference with offsets := { DevOffsets.reference with psr := 0x040 } } }).valid =
      true := by decide
theorem test_cfg_bad_layout : ({ Cfg.reference with poolSize := 0x7C }).valid = false := by decide
theorem test_text_form :
    parseLine "AADD 0x123, 0x7FF".toList = some (.aadd 0x123 0x7FF) ∧ parseLine "HTX".toList = some .htx ∧
    parseLine "TSREC 0xFFF0".toList = some (.tsrec 0xFFF0) ∧ parseLine "INIT".toList = none := by decide

/-! Decoding, one word per row written out from `30_encoding.md` R150 (`95_test_vectors.md` V1, V2). -/

theorem test_decode_nop : decode (0b0000#4 ++ 0#28) = .ok .nop := by decide
theorem test_decode_init : decode (0b0001#4 ++ 0b0000_0000_0000_0000_0000#20 ++ 0b1111_1111#8) = .ok (.init 255) := by decide
theorem test_decode_disable : decode (0b0010#4 ++ 0#28) = .ok .disable := by decide
theorem test_decode_enable : decode (0b0011#4 ++ 0#28) = .ok .enable := by decide
theorem test_decode_solve : decode (0b0100#4 ++ 0#28) = .ok .solve := by decide
theorem test_decode_setspeed : decode (0b0101#4 ++ 0#28) = .ok .setspeed := by decide
theorem test_decode_aclr : decode (0b0110#4 ++ 0#28) = .ok .aclr := by decide
theorem test_decode_aadd :
    decode (0b0111#4 ++ 0b0#1 ++ 0b100_0000_0000#11 ++ 0b00000#5 ++ 0b111_0000_0000#11) = .ok (.aadd 0x400 0x700) := by
  decide
theorem test_decode_htx : decode (0b1000#4 ++ 0#28) = .ok .htx := by decide
theorem test_decode_hrx : decode (0b1001#4 ++ 0#28) = .ok .hrx := by decide
theorem test_decode_tsrec : decode (0b1010#4 ++ 0b0000_0000_0000#12 ++ 0b1111_1111_1111_0000#16) = .ok (.tsrec 0xFFF0) := by
  decide
theorem test_decode_rpsr : decode (0b1011#4 ++ 0#28) = .ok .rpsr := by decide
theorem test_decode_upderr : decode (0b1100#4 ++ 0#28) = .ok .upderr := by decide
theorem test_decode_htxe : decode (0b1101#4 ++ 0#28) = .ok .htxe := by decide
theorem test_decode_illegal :
    decode 0xE0000000 = .error .reservedOpcode ∧ decode 0xF0000000 = .error .reservedOpcode ∧
    decode 0x10000100 = .error .mustBeZero ∧ decode 0x78000000 = .error .mustBeZero ∧
    decode 0x70000800 = .error .mustBeZero ∧ decode 0xA0010000 = .error .mustBeZero ∧
    decode 0x80000001 = .error .mustBeZero := by decide

/-! States. -/

/-- A controller as INIT leaves it under the reference configuration (`70_reset_and_hazards.md` R405). -/
def readyCtrl : Ctrl :=
  { Ctrl.powerOn with
    mode := { init := false, cce := false, fd := false }
    gfc := { rejNomatch := true, rejRemote := true }
    fltc := { base := 0x00, count := 4 }
    rxc := { base := 0x10, count := 4, overwrite := false }
    txc := { base := 0x50, count := 2 }
    txec := { base := 0x70, count := 2 } }

/-- The reference machine with an enabled instance at 500 kbit/s and controller 0 in the given state. -/
def withCtrl (k : Ctrl) : State :=
  { State.reset.setCtrlAt 0 k with
    regs :=
      { State.reset.regs with
        pClock := 80000000
        pRate := 500000
        cpb := 160
        cstate := { State.reset.regs.cstate with inst := true, enabled := true } } }

/-- The reference machine, ready. -/
def ready : State := withCtrl readyCtrl

/-- The frame of `i` at label `l`. -/
def frameAt (i : Instr) (l : Label) : Frame := { Frame.start i with seq := l }

/-- `s` with a frame on the FG port. -/
def onFg (f : Frame) (s : State) : State := { s with fgPort := { s.fgPort with frame := some f } }

/-- A property of the next state; false where there is none. -/
def after (r : Result) (p : State → Bool) : Bool :=
  match r with
  | .next t => p t
  | _ => false

/-! One step per operation. -/

/-- `40_lifecycle.md` R190: `STAT_FG = 0x00000006`. -/
theorem test_nop : after (exec .nop (onFg (Frame.start .nop) ready)) (fun t => hostRead t 0x04 4 == 0x00000006) = true := by
  decide

/-- `40_lifecycle.md` R194, `10_state.md` R46: `done`, `err = 1`. -/
theorem test_init_bad_device : after (exec (.init 2) (onFg (Frame.start (.init 2)) ready))
    (fun t => hostRead t 0x04 4 == 0x00000102 && t.regs == ready.regs) = true := by decide

/-- `40_lifecycle.md` R199: `BT = (1, 139, 20, 20)`, `CPB = 160`. -/
theorem test_init_timing : after (exec (.init 0) (onFg (frameAt (.init 0) .initS3) ready))
    (fun t => [hostRead t 0x20 4, hostRead t 0x24 4, hostRead t 0x28 4, hostRead t 0x2C 4, hostRead t 0x64 4] ==
      [1, 139, 20, 20, 160]) = true := by decide

/-- `40_lifecycle.md` R195: the second `MODE` write. -/
theorem test_disable : after (exec .disable (onFg (frameAt .disable .disableS2) ready))
    (fun t => t.ctrl.mode == { init := true, cce := true, fd := false } && hostRead t 0x30 4 == 0x00000001) = true := by
  decide

/-- `40_lifecycle.md` R197, R198. -/
theorem test_enable : after
    (exec .enable (onFg (Frame.start .enable) (withCtrl { readyCtrl with mode := { init := true, cce := true, fd := false } })))
    (fun t => t.ctrl.mode == { init := false, cce := false, fd := false } && hostRead t 0x30 4 == 0x00000003) = true := by
  decide

/-- `41_bit_timing.md` R233, "prescaler search": (3, 186, 26, 26, 0). -/
theorem test_solve_search : after
    (exec .solve (onFg (Frame.start .solve) (ready.setRegs { ready.regs with pRate := 125000 })))
    (fun t => [t.regs.btPresc, t.regs.btSeg1, t.regs.btSeg2, t.regs.btSjw] == [3, 186, 26, 26] && !t.regs.cstate.btFb) =
    true := by decide

/-- `41_bit_timing.md` R233, "too few quanta": (1, 1, 1, 1, 1). -/
theorem test_solve_fallback : after
    (exec .solve (onFg (Frame.start .solve) (ready.setRegs { ready.regs with pClock := 2000000, pRate := 1000000 })))
    (fun t => [t.regs.btPresc, t.regs.btSeg1, t.regs.btSeg2, t.regs.btSjw] == [1, 1, 1, 1] && t.regs.cstate.btFb) =
    true := by decide

/-- `41_bit_timing.md` R230: `BT = (1, 69, 10, 10)`, `CPB = 80`. -/
theorem test_setspeed : after
    (exec .setspeed (onFg (frameAt .setspeed .setspeedS3) (ready.setRegs { ready.regs with pRate := 1000000 })))
    (fun t => [t.regs.btPresc, t.regs.btSeg1, t.regs.btSeg2, t.regs.btSjw, t.regs.cpb] == [1, 69, 10, 10, 80]) = true := by
  decide

/-- `42_filters.md` R252, R253: the last word of the zone at 0x0C, then the count. -/
theorem test_aclr : after (exec .aclr (onFg (frameAt .aclr (.aclrS3 3)) (memWrite ready 0x0C 0x892307FF)))
    (fun t => memRead t 0x0C == 0 && t.fgPort.frame.any (fun f => f.seq == .aclrS4)) = true := by decide

/-- `42_filters.md` R252, `00_scope.md` R17: the first word of the zone's clearing also ends `Dis.2`. -/
theorem test_aclr_disables : after
    (exec .aclr (onFg { frameAt .aclr (.aclrS3 0) with loc := { Locals.empty with was := true } } ready))
    (fun t => hostRead t 0x30 4 == 0x00000001) = true := by decide

/-- `42_filters.md` R257: 0x892307FF at offset 0x00, `FCOUNT = 1`. -/
theorem test_aadd : after (exec (.aadd 0x123 0x7FF) (onFg (frameAt (.aadd 0x123 0x7FF) .aaddS1) ready))
    (fun t => memRead t 0x00 == 0x892307FF && hostRead t 0x34 4 == 1) = true := by decide

/-- `42_filters.md` R255: the fifth AADD of `MAXF = 4`. -/
theorem test_aadd_full : after
    (exec (.aadd 1 2) (onFg (Frame.start (.aadd 1 2)) (ready.setRegs { ready.regs with fcount := 4 })))
    (fun t => hostRead t 0x34 4 == 4 && hostRead t 0x04 4 == 0x00000006 && memRead t 0x0C == 0) = true := by decide

/-- The message `{lid = 0x8A5, length = 9}`: a remote frame with a length above 8 (`43_tx_engine.md` R276). -/
def sampleMsg : TxMsg where
  lid := 0x8A5
  length := 9
  data := #v[0x11, 0x22, 0x33, 0x44, 0x55, 0x66, 0x77, 0x88]

/-- A frame of HTX that holds `sampleMsg` and slot 1. -/
def htxFrame (l : Label) : Frame :=
  { frameAt .htx l with loc := { Locals.empty with put := 1, m := sampleMsg }, crit := true }

/-- `43_tx_engine.md` R272, R276: id 0x0A5, `rtr` at bit 29, in word 0 of slot 1 (offset 0x60). -/
theorem test_htx_id_word : after (exec .htx (onFg (htxFrame .htxL7) ready))
    (fun t => memRead t 0x60 == 0x22940000) = true := by decide

/-- `43_tx_engine.md` R276: `dlc = 8` for a length of 9, in word 1 (offset 0x64); `tag` and `evt` are 0. -/
theorem test_htx_control_word : after (exec .htx (onFg (htxFrame .htxL6) ready))
    (fun t => memRead t 0x64 == 0x00080000) = true := by decide

/-- A frame of HRX that holds the slot of `44_rx_engine.md` R297. -/
def hrxFrame (l : Label) : Frame :=
  { frameAt .hrx l with
    loc :=
      { Locals.empty with
        get := 3, w0 := 0x048C0000, w1 := 0x0002FFF0, w2 := 0x0000BBAA, t0 := 1000000, now16 := 0x0010 } }

/-- `45_timestamp.md` R322, `00_scope.md` R17: a clean bracket ends with `t1` sampled; `TS_ABS` waits for the next call. -/
theorem test_hrx_bracket : after (exec .hrx (onFg (hrxFrame .hrxL7) { ready with clock := 1000004 }))
    (fun t => hostRead t 0x60 4 == 0 && t.fgPort.frame.any (fun f => f.seq == .hrxL8 && f.loc.t1 == 1000004)) = true := by
  decide

/-- `44_rx_engine.md` R297: `TS_ABS = 994884` and the message handed over, under a stale `TS_ABS`. -/
theorem test_hrx_message : after
    (exec .hrx (onFg { hrxFrame .hrxL8 with loc := { (hrxFrame .hrxL8).loc with t1 := 1000004 } }
      (ready.setRegs { ready.regs with tsAbs := 1 })))
    (fun t => t.consumer ==
      [{ lid := 0x123, length := 2, data := #v[0xAA, 0xBB, 0, 0, 0, 0, 0, 0], timestamp := 994884 }] &&
      hostRead t 0x5C 4 == 1 && hostRead t 0x60 4 == 994884) = true := by decide

/-- A frame of TSREC at its third step (`45_timestamp.md` R324). -/
def tsrecFrame : Frame :=
  { frameAt (.tsrec 0xFFF0) .tsrecS3 with loc := { Locals.empty with t0 := 2000000, now16 := 0x0010 } }

/-- `45_timestamp.md` R324: `TS_ABS = 1994883`. -/
theorem test_tsrec : after (exec (.tsrec 0xFFF0) (onFg tsrecFrame { ready with clock := 2000003 }))
    (fun t => hostRead t 0x60 4 == 1994883) = true := by decide

/-- `45_timestamp.md` R322: a bracket of 101 ticks is dirty (one of 100 is clean). -/
theorem test_tsrec_dirty : after (exec (.tsrec 0xFFF0) (onFg tsrecFrame { ready with clock := 2000101 }))
    (fun t => hostRead t 0x60 4 == 0 && t.fgPort.frame.any (fun f => f.seq == .tsrecS1)) = true := by decide

/-- `46_bus_health.md` R336: code 3, warning. -/
theorem test_rpsr : after
    (exec .rpsr (onFg (Frame.start .rpsr)
      ((withCtrl { readyCtrl with psr := { lec := 3, warning := true, busOff := false } }).setRegs
        { ready.regs with errs := { ErrCounters.zero with ack := 4 } })))
    (fun t => hostRead t 0x40 4 == 5 && hostRead t 0x30 4 == 0x00000027 && t.ctrl.psr.lec == 7) = true := by decide

/-- `46_bus_health.md` R344: `REC = 12`, `TEC = 130`, `ERR_LOG = 13`. -/
theorem test_upderr : after
    (exec .upderr (onFg (Frame.start .upderr)
      ((withCtrl { readyCtrl with ecr := { recv := 12, tec := 130, cel := 3 } }).setRegs
        { ready.regs with errLog := 10 })))
    (fun t => [hostRead t 0x50 4, hostRead t 0x54 4, hostRead t 0x58 4] == [12, 130, 13] && t.ctrl.ecr.cel == 0) = true := by
  decide

/-- The machine of `44_rx_engine.md` R301: `RX_OWN_TX`. -/
def ownTx : State := { ready with cfg := { Cfg.reference with rxOwnTx := true } }

/-- A frame of HTXE at its timestamp, with the element of R301: id 0x055, `dlc = 1`, tag 0, `ts = 0x0100`. -/
def htxeFrame (l : Label) : Frame :=
  { frameAt .htxe l with
    loc := { Locals.empty with v0 := 0x01540000, v1 := 0x00010100, p0 := 0x0000007E, t0 := 5000, now16 := 0x0104 } }

/-- `44_rx_engine.md` R299 (e): a tag that is no slot (2 of `TXD = 2`) skips to `TE.L5` with the payload words still to be
zeroed. -/
theorem test_htxe_foreign_tag : after
    (exec .htxe (onFg (htxeFrame .teL2) (memWrite ownTx 0x74 0x02010100)))
    (fun t => t.fgPort.frame.any (fun f => f.seq == .teL5 && (f.payloadOrZero t.cfg).loc.p0 == 0)) = true := by decide

/-- `44_rx_engine.md` R301, R299: the message, `TS_ABS = 5002 - 160*4 = 4362`, and `RX_COUNT` unchanged. -/
theorem test_htxe_message : after
    (exec .htxe (onFg { htxeFrame .teL8 with loc := { (htxeFrame .teL8).loc with t1 := 5002 } } ownTx))
    (fun t => t.consumer == [{ lid := 0x055, length := 1, data := #v[0x7E, 0, 0, 0, 0, 0, 0, 0], timestamp := 4362 }] &&
      hostRead t 0x5C 4 == 0 && hostRead t 0x60 4 == 4362) = true := by decide

/-! Steps of the controller on its own. -/

/-- A data frame on the bus. -/
def sampleFrame : BusFrame :=
  { id := 0x123, rtr := false, xtd := false, dlc := 0, data := Vector.replicate 8 0, openAccept := false, openIrq := false,
    junk0 := 0, junk1 := 0 }

/-- `20_memory.md` R139: a frame received without error leaves `lec = 0`, accepted or not. -/
theorem test_arrival_lec :
    ((controllerStep (withCtrl { readyCtrl with psr := { lec := 3, warning := false, busOff := false } }) 0
      (.arrive sampleFrame)).ctrlAt 0).psr.lec = 0 := by decide

/-- `20_memory.md` R133: `ts` is the counter at the acceptance, also when bit times pass before the frame counts; reference
`PACK` of R115, `ts` bits 15:0 of word 1. -/
theorem test_arrival_stamp :
    let s := memWrite (withCtrl { readyCtrl with tscnt := 0xFFFF }) 0x00 (aaddWord Cfg.reference 0x123 0x7FF)
    let held := controllerStep s 0 (.arrive sampleFrame)
    let t := controllerStep (controllerStep held 0 .tick) 0 .rxStore
    (held.ctrlAt 0).rxFill = 0 ∧ (t.ctrlAt 0).rxFill = 1 ∧ (t.ctrlAt 0).tscnt = 0 ∧
      (memRead t 0x14).extractLsb' 0 16 = 0xFFFF := by decide

/-- `20_memory.md` R137, R117: an event's `ts` is the counter at the transmission, also when bit times pass before the
completion. -/
theorem test_event_stamp :
    let s := memWrite (withCtrl { readyCtrl with txReq := [0], txPut := 1, tscnt := 7 }) 0x54 0x00800000
    let t := controllerStep (controllerStep (controllerStep s 0 (.txSend 0)) 0 .tick) 0 (.txDone 0 0)
    (t.eventAt 0).ts = 7 ∧ (t.ctrlAt 0).tscnt = 8 ∧ (t.ctrlAt 0).txSent = [] := by decide

/-- `70_reset_and_hazards.md` R423: "A frame being received at `Dis.1` is lost". -/
theorem test_disable_loses_reception :
    let s := withCtrl { readyCtrl with rxHeld := [(sampleFrame, 5)] }
    let t := controllerStep (en1 (dis2 (dis1 s))) 0 .rxStore
    t.ctrl.rxHeld = [] ∧ t.ctrl.rxFill = 0 := by decide

/-- `10_state.md` R68: `put` is a free slot also after U5 has dropped a request that is not the oldest (ring of two, full with
slots 0 and 1 requested, slot 1 dropped). -/
theorem test_put_after_drop :
    let s := dis1 (withCtrl { readyCtrl with txReq := [0, 1], txPut := 0 })
    readTxs (controllerStep s 0 (.dropRequest 1)) = { put := 1, full := false } := by decide

/-- `10_state.md` R69, `20_memory.md` R136: from there, slot 0 completes while HTX fills slot 1, and the doorbell for slot 1 is
still the contract's. -/
theorem test_doorbell_after_drop :
    let s := controllerStep (dis1 (withCtrl { readyCtrl with txReq := [0, 1], txPut := 0 })) 0 (.dropRequest 1)
    let t := controllerStep (en1 s) 0 (.txDone 0 0)
    (ringDoorbell t (1#32 <<< (readTxs s).put)).ctrl.txReq = [1] := by decide

/-- `60_exceptions.md` R365: the platform clears `tx_done` "through its own path", and the line falls. -/
theorem test_outside_ir :
    let k :=
      { readyCtrl with
        ie := { rxNew := false, txDone := true }, ir := { rxNew := true, txDone := true } }
    let t := controllerStep (withCtrl k) 0 (.outsideIr { rxNew := false, txDone := true })
    k.irqLine false = true ∧ t.ctrl.irqLine false = false ∧ t.ctrl.ir = { rxNew := true, txDone := false } := by decide

/-- `00_scope.md` R21, R8: the source may give up the message it held. -/
theorem test_source_withdraws :
    (agentMove (.source []) { ready with source := [{ lid := 1, length := 0, data := Vector.replicate 8 0 }] }).source = [] :=
  by decide

/-- `10_state.md` R87: other readers of `PSR` and `ECR` take `lec` and `cel` away. -/
theorem test_outside_readers :
    let s := withCtrl
      { readyCtrl with
        psr := { lec := 3, warning := false, busOff := false }, ecr := { recv := 1, tec := 2, cel := 9 } }
    ((controllerStep s 0 .psrRead).ctrlAt 0).psr.lec = 7 ∧ ((controllerStep s 0 .ecrRead).ctrlAt 0).ecr.cel = 0 := by
  decide

/-! The reference packing of the device registers (`93_implementation_defined.md` U20). -/

/-- U20: "`{1,1}` is the word 0x0000002B"; `BT = (1, 139, 20, 20)` as NBTP, each field the value minus one. -/
theorem test_dev_words :
    devWriteWord Cfg.reference (.gfc { rejNomatch := true, rejRemote := true }) = (0x080, 0x0000002B) ∧
    devWriteWord Cfg.reference (.btr { presc := 1, seg1 := 139, seg2 := 20, sjw := 20 }) = (0x01C, 0x26008A13) ∧
    unpackDev Pack.reference .rxs 0x00000301 = .rxs { fill := 1, get := 3 } := by decide

/-! Witnesses: for every statement with hypotheses, a state and operands that meet them, clause by clause. -/

/-- A frame on the FG port with no IS frame is the current one. -/
theorem at_frame (f : Frame) (s : State) (h : s.isPort.frame = none) : (onFg f s).At .fg f f.seq :=
  ⟨current_fg h rfl, rfl⟩

/-- At any label of any operation there is a state: the ready machine with that frame. -/
theorem at_onFg (i : Instr) (l : Label) (s : State) (h : s.isPort.frame = none) :
    (onFg (frameAt i l) s).At .fg (frameAt i l) l :=
  ⟨current_fg h rfl, rfl⟩

theorem witness_DecodeByMatchAndMask :
    (Instr.init 0 ∈ tableRows ∧ 0x100000FF#32 &&& rowMask (.init 0) = rowMatch (.init 0)) ∧
    decode 0x100000FF = .ok (.init 255) ∧ (∀ r ∈ tableRows, 0xE0000000#32 &&& rowMask r ≠ rowMatch r) := by decide

theorem witness_IllegalWordsHaveNoEffect :
    decode 0x70000800 = .error .mustBeZero ∧ decode 0xF0000000 = .error .reservedOpcode ∧ ready.frame .is = none := by
  decide

theorem witness_OperandFieldsAreUnsigned :
    decode 0x100000FF = .ok (.init 255) ∧ decode 0x77FF07FF = .ok (.aadd 0x7FF 0x7FF) ∧
    decode 0xA000FFFF = .ok (.tsrec 0xFFFF) := by decide

theorem witness_AssemblerNeverTruncates :
    AsmCmd.word (.init 255) = some 0x100000FF ∧ AsmCmd.word (.aadd 0x7FF 0) = some 0x77FF0000 ∧
    AsmCmd.word (.tsrec 0xFFFF) = some 0xA000FFFF := by decide

theorem witness_PackingRoundTrips : Cfg.reference.valid = true := by decide

theorem witness_DeviceRegistersPackFaithfully :
    Cfg.reference.valid = true ∧
    DevRec.legal Cfg.reference (.btr { presc := 512, seg1 := 256, seg2 := 128, sjw := 128 }) = true ∧
    DevRec.legal Cfg.reference (.rxc { base := 0xFFFC, count := 4, overwrite := true }) = true ∧
    DevRec.legal Cfg.reference (.rxs { fill := 4, get := 3 }) = true ∧
    DevRec.legal Cfg.reference (.txes { fill := 2, get := 1 }) = true := by decide

theorem witness_StepRunsTheFrame :
    (ready.cfg.valid = true ∧ (onFg (frameAt .nop .nopS0) ready).sched = [] ∧
      (onFg (frameAt .nop .nopS0) ready).current = some (.fg, frameAt .nop .nopS0)) ∧
    ({ ready with sched := [.seq, .reset] }).sched = .seq :: [.reset] ∧
    (({ ready with sched := [.reset] }).sched = .reset :: [] ∧ Turn.reset ≠ .seq) ∧
    decode 0x10000001 = .ok (.init 1) ∧ ready.current = none ∧
    ({ ready with cfg := { Cfg.reference with txd := 0 } }).cfg.valid = false := by decide

theorem witness_AcceptanceChecksInOrder :
    ready.frame .is = none ∧ State.reset.frame .fg = none ∧ decode 0xE0000000 = .error .reservedOpcode ∧
    decode 0x20000000 = .ok .disable ∧ State.reset.regs.cstate.inst = false ∧ decode 0xA0000000 = .ok (.tsrec 0) := by
  decide

theorem witness_BusyPortIgnoresCommands :
    (onFg (frameAt .htx .htxL4) ready).frame .fg ≠ none ∧ ready.frame .fg = none := by decide

theorem witness_HostAccessIsAligned32 : (2 ≠ 4 ∨ 0x10 % 4 ≠ 0) ∧ (4 ≠ 4 ∨ 0x12 % 4 ≠ 0) := by decide

theorem witness_HostRegisterMap :
    0x1C ∈ [0x10, 0x14, 0x18, 0x1C] ∧ 0x20 ≠ 0x1C ∧ 0x04 ∉ [0x00, 0x08, 0x10, 0x14, 0x18, 0x1C] ∧
    0x74 ∉ [0x00, 0x08, 0x10, 0x14, 0x18, 0x1C] ∧ 0x78 ≤ 0x78 := by decide

/-- The ready machine with an IS frame as well. -/
def onIs (f : Frame) (s : State) : State := { s with isPort := { s.isPort with frame := some f } }

/-- FG at label `l` of HTX's critical section, an IS NOP waiting. -/
def inSection (l : Label) : State := onIs (Frame.start .nop) (onFg { frameAt .htx l with crit := true } ready)

theorem witness_IsContextPreempts :
    (onIs (Frame.start .nop) (onFg (frameAt .htx .htxL0) ready)).current = some (.is, Frame.start .nop) ∧
    (∃ t, exec .nop (onIs (Frame.start .nop) (onFg (frameAt .htx .htxL0) ready)) = .next t) ∧
    (inSection .htxL2).frame .fg = some { frameAt .htx .htxL2 with crit := true } ∧
    (onFg (frameAt .htx .htxL0) ready).frame .is = none :=
  ⟨by decide, ⟨_, rfl⟩, rfl, rfl⟩

theorem inSection_inv (l : Label) (h : owns .htx l = true) (hl : l.inCrit = true) : (inSection l).Inv := by
  refine ⟨(by decide : ready.cfg.valid = true), (by decide : Memory.wf ready.mem = true), ?_, ?_, ?_,
    (by decide : ready.regs.fcount.toNat ≤ ready.cfg.maxf), ?_, ?_,
    (by decide : ready.regs.cstate.health = healthOf ready.regs.cstate.warning ready.regs.cstate.busOff),
    (by decide : ready.regs.cstate.dev.toNat < ready.cfg.numDev)⟩
  · intro c f hf
    cases c <;> cases hf
    · exact h
    · decide
  · intro c f hf
    cases c <;> cases hf
    · exact hl.symm
    · decide
  · intro f hf; cases hf; decide
  · intro f hf he
    cases hf
    rw [show l = .aaddS1 from he] at h
    cases h
  · intro f hf he
    cases hf
    rcases he with he | he <;> (rw [show l = _ from he] at h; cases h)

theorem witness_CriticalSectionIsShort :
    (inSection .htxL2).Inv ∧ (inSection .htxL9).Inv ∧ (inSection .htxL2).sched = [] ∧
    (inSection .htxL2).frame .fg = some { frameAt .htx .htxL2 with crit := true } :=
  ⟨inSection_inv _ rfl rfl, inSection_inv _ rfl rfl, rfl, rfl⟩

theorem witness_CompletionWritesStatus :
    ((onFg (frameAt .nop .nopS0) ready).current = some (.fg, frameAt .nop .nopS0) ∧
      ∃ t, exec .nop (onFg (frameAt .nop .nopS0) ready) = .next t ∧ t.frame .fg = none) ∧
    (∃ t, exec (.init 2) (onFg (frameAt (.init 2) .initS0) ready) = .next t ∧ t.frame .fg = none) ∧
    (∃ t, exec .htx (onFg (frameAt .htx .htxX1) ready) = .next t ∧ t.frame .fg = none) ∧
    (∃ t, exec .htx (onFg (frameAt .htx .htxL9) ready) = .next t ∧ t.frame .fg ≠ none) :=
  ⟨⟨by decide, _, rfl, rfl⟩, ⟨_, rfl, rfl⟩, ⟨_, rfl, rfl⟩, _, rfl, by simp [goto, State.setFrame, State.setPort, State.frame, State.port]⟩

theorem witness_RunningCommandCannotBeChanged :
    ((onFg (frameAt .hrx .hrxL1) ready).current = some (.fg, frameAt .hrx .hrxL1) ∧
      ∃ t, exec .hrx (onFg (frameAt .hrx .hrxL1) ready) = .next t) ∧ Ctx.is ≠ .fg ∧
    Turn.hostWrite 0x00 4 0 ≠ .reset ∧ (onFg (frameAt .hrx .hrxL1) ready).frame .fg = some (frameAt .hrx .hrxL1) :=
  ⟨⟨by decide, _, rfl⟩, by decide, by decide, rfl⟩

theorem witness_StepsStoreOnlyTheirWord :
    Memory.wf ready.mem = true ∧
    (∃ t, exec .htx (onFg (htxFrame .htxL6) ready) = .next t) ∧
    storeTarget (onFg (htxFrame .htxL6) ready) (htxFrame .htxL6) = some (0x64, 0x00080000) ∧
    (∃ t, exec .htx (onFg (htxFrame .htxL8) ready) = .next t) ∧
    storeTarget (onFg (htxFrame .htxL8) ready) (htxFrame .htxL8) = none :=
  ⟨by decide, ⟨_, rfl⟩, by decide, ⟨_, rfl⟩, rfl⟩

theorem witness_RegistersHaveFixedWriters :
    (∃ t, exec .htx (onFg (frameAt .htx .htxS0) ready) = .next t) ∧ (∃ t, exec .nop (onFg (frameAt .nop .nopS0) ready) = .next t) :=
  ⟨⟨_, rfl⟩, _, rfl⟩

theorem witness_DeviceRegistersHaveFixedWriters :
    (∃ t, exec .enable (onFg (frameAt .enable .enableS1) ready) = .next t) ∧ (1 : BitVec 8) ≠ ready.regs.cstate.dev :=
  ⟨⟨_, rfl⟩, by decide⟩

theorem witness_CollaboratorsSeeOneCallAStep :
    (∃ t, exec .htx (onFg (frameAt .htx .htxL3) { ready with source := [sampleMsg] }) = .next t) ∧
    (∃ t, exec .hrx (onFg (hrxFrame .hrxL8) ready) = .next t) :=
  ⟨⟨_, rfl⟩, _, rfl⟩

theorem witness_NopOnlyCompletes : (onFg (frameAt .nop .nopS0) ready).At .fg (frameAt .nop .nopS0) .nopS0 := at_onFg _ _ _ rfl

theorem witness_InitChecksItsDevice :
    (onFg (frameAt (.init 2) .initS0) ready).At .fg (frameAt (.init 2) .initS0) .initS0 ∧
    (onFg (frameAt (.init 2) .initS0) ready).cfg.numDev ≤ (2 : BitVec 8).toNat ∧
    (onFg (frameAt (.init 1) .initS0) ready).At .fg (frameAt (.init 1) .initS0) .initS0 ∧
    (1 : BitVec 8).toNat < (onFg (frameAt (.init 1) .initS0) ready).cfg.numDev :=
  ⟨at_onFg _ _ _ rfl, by decide, at_onFg _ _ _ rfl, by decide⟩

/-- The ready machine with its controller in configuration mode. -/
def configuring : State := withCtrl { readyCtrl with mode := { init := true, cce := true, fd := false } }

theorem witness_InitProgramsTheController :
    ∀ l, (onFg (frameAt (.init 0) l) configuring).At .fg (frameAt (.init 0) l) l ∧
      (onFg (frameAt (.init 0) l) configuring).ctrl.mode.init = true ∧
      (onFg (frameAt (.init 0) l) configuring).ctrl.mode.cce = true :=
  fun l => ⟨at_onFg _ l _ rfl, (by decide : configuring.ctrl.mode.init = true), (by decide : configuring.ctrl.mode.cce = true)⟩

theorem witness_DisableAndEnableWriteMode :
    (∀ l, (onFg (frameAt .disable l) ready).At .fg (frameAt .disable l) l) ∧
    (onFg (frameAt .enable .enableS1) ready).At .fg (frameAt .enable .enableS1) .enableS1 :=
  ⟨fun l => at_onFg _ l _ rfl, at_onFg _ _ _ rfl⟩

theorem witness_SolveWritesItsResult : (onFg (frameAt .solve .solveS0) ready).At .fg (frameAt .solve .solveS0) .solveS0 :=
  at_onFg _ _ _ rfl

/-- A frame that started enabled. -/
def wasEnabled (i : Instr) (l : Label) : Frame := { frameAt i l with loc := { Locals.empty with was := true } }

theorem witness_SetspeedSteps :
    (∀ l, (onFg (frameAt .setspeed l) configuring).At .fg (frameAt .setspeed l) l ∧
      (onFg (frameAt .setspeed l) configuring).ctrl.mode.init = true ∧
      (onFg (frameAt .setspeed l) configuring).ctrl.mode.cce = true ∧ (frameAt .setspeed l).loc.was = false) ∧
    (onFg (wasEnabled .setspeed .setspeedS5) configuring).At .fg (wasEnabled .setspeed .setspeedS5) .setspeedS5 ∧
    (wasEnabled .setspeed .setspeedS5).loc.was = true :=
  ⟨fun l => ⟨at_onFg _ l _ rfl, (by decide : configuring.ctrl.mode.init = true),
    (by decide : configuring.ctrl.mode.cce = true), rfl⟩, at_frame _ _ rfl, rfl⟩

theorem witness_AclrSteps :
    (∀ l, (onFg (frameAt .aclr l) ready).At .fg (frameAt .aclr l) l ∧ (frameAt .aclr l).loc.was = false) ∧
    (onFg (wasEnabled .aclr .aclrS4) ready).At .fg (wasEnabled .aclr .aclrS4) .aclrS4 ∧
    (wasEnabled .aclr .aclrS4).loc.was = true :=
  ⟨fun l => ⟨at_onFg _ l _ rfl, rfl⟩, at_frame _ _ rfl, rfl⟩

theorem witness_AaddOnAFullTableIsIgnored :
    ∃ s, State.At s .fg (frameAt (.aadd 1 2) .aaddS0) .aaddS0 ∧ s.cfg.maxf ≤ s.regs.fcount.toNat :=
  ⟨onFg (frameAt (.aadd 1 2) .aaddS0) (ready.setRegs { ready.regs with fcount := 4 }), at_onFg _ _ _ rfl, by decide⟩

theorem witness_AaddAppendsAFilter :
    ∀ l, ∃ s, State.At s .fg (frameAt (.aadd 1 2) l) l ∧ s.regs.fcount.toNat < s.cfg.maxf :=
  fun l => ⟨onFg (frameAt (.aadd 1 2) l) (ready.setRegs { ready.regs with fcount := 3 }), at_onFg _ _ _ rfl,
    (by decide : (3 : Word).toNat < ready.cfg.maxf)⟩

theorem witness_HtxSteps :
    (∀ l, (onFg (frameAt .htx l) ready).At .fg (frameAt .htx l) l ∧ (onFg (frameAt .htx l) ready).source = [] ∧
      (onFg (frameAt .htx l) ready).ctrl.txReq.length ≠ (onFg (frameAt .htx l) ready).ctrl.txc.count) ∧
    (∃ s, State.At s .fg (frameAt .htx .htxL0) .htxL0 ∧ s.source ≠ []) ∧
    (∃ s, State.At s .fg (frameAt .htx .htxL2) .htxL2 ∧ s.ctrl.txReq.length = s.ctrl.txc.count) ∧
    (∃ s, State.At s .fg (frameAt .htx .htxL3) .htxL3 ∧ s.source = sampleMsg :: []) ∧
    (∃ s, State.At s .fg (htxFrame .htxL8) .htxL8 ∧ (htxFrame .htxL8).loc.put = s.ctrl.txPut ∧
      (htxFrame .htxL8).loc.put < s.ctrl.txc.count ∧ (htxFrame .htxL8).loc.put < 32 ∧
      s.ctrl.txReq.length ≠ s.ctrl.txc.count ∧ (htxFrame .htxL8).loc.put ∉ s.ctrl.txReq ∧
      s.ctrl.txPut < s.ctrl.txc.count ∧ s.ctrl.txPut ∉ s.ctrl.txReq ∧ s.ctrl.txReq.length < s.ctrl.txc.count) :=
  ⟨fun l => ⟨at_onFg _ l _ rfl, rfl, (by decide : ready.ctrl.txReq.length ≠ ready.ctrl.txc.count)⟩,
    ⟨onFg (frameAt .htx .htxL0) { ready with source := [sampleMsg] }, at_onFg _ _ _ rfl, by decide⟩,
    ⟨onFg (frameAt .htx .htxL2) (withCtrl { readyCtrl with txReq := [0, 1] }), at_onFg _ _ _ rfl, by decide⟩,
    ⟨onFg (frameAt .htx .htxL3) { ready with source := [sampleMsg] }, at_onFg _ _ _ rfl, rfl⟩,
    ⟨onFg (htxFrame .htxL8) (withCtrl { readyCtrl with txPut := 1 }), at_frame _ _ rfl, by decide⟩⟩

theorem witness_HrxSteps :
    (∀ l, (onFg (frameAt .hrx l) ready).At .fg (frameAt .hrx l) l ∧ (onFg (frameAt .hrx l) ready).ctrl.rxFill = 0 ∧
      ((onFg (frameAt .hrx l) ready).clock - (frameAt .hrx l).loc.t0).toNat ≤
        (onFg (frameAt .hrx l) ready).cfg.tsBracketMax) ∧
    (∃ s, State.At s .fg (frameAt .hrx .hrxL0) .hrxL0 ∧ s.ctrl.rxFill ≠ 0) ∧
    (∃ s, State.At s .fg (frameAt .hrx .hrxL7) .hrxL7 ∧
      s.cfg.tsBracketMax < (s.clock - (frameAt .hrx .hrxL7).loc.t0).toNat) ∧
    (∃ s, State.At s .fg (hrxFrame .hrxL9) .hrxL9 ∧ (hrxFrame .hrxL9).loc.get = s.ctrl.rxGet ∧ 0 < s.ctrl.rxFill) :=
  ⟨fun l => ⟨at_onFg _ l _ rfl, (by decide : ready.ctrl.rxFill = 0),
      (by decide : (ready.clock - Locals.empty.t0).toNat ≤ ready.cfg.tsBracketMax)⟩,
    ⟨onFg (frameAt .hrx .hrxL0) (withCtrl { readyCtrl with rxFill := 4 }), at_onFg _ _ _ rfl, by decide⟩,
    ⟨onFg (frameAt .hrx .hrxL7) { ready with clock := 101 }, at_onFg _ _ _ rfl, by decide⟩,
    ⟨onFg (hrxFrame .hrxL9) (withCtrl { readyCtrl with rxFill := 1, rxGet := 3 }), at_frame _ _ rfl, by decide⟩⟩

/-- A frame of HTXE with an event whose tag, 2, is the first number that is no slot. -/
def foreignTag (l : Label) : Frame := { frameAt .htxe l with loc := { Locals.empty with v1 := 0x02000000 } }

theorem witness_TxEventDrainSteps :
    (∀ i l, (onFg (frameAt i l) ready).At .fg (frameAt i l) l ∧ (onFg (frameAt i l) ready).cfg.rxOwnTx = false ∧
      (onFg (frameAt i l) ready).ctrl.txeFill = 0 ∧
      ((onFg (frameAt i l) ready).clock - (frameAt i l).loc.t0).toNat ≤ (onFg (frameAt i l) ready).cfg.tsBracketMax) ∧
    (∃ s, State.At s .fg (frameAt .htxe .htxeS0) .htxeS0 ∧ s.cfg.rxOwnTx = true ∧ s.ctrl.txeFill = 0) ∧
    (∃ s, State.At s .fg (frameAt .htxe .htxeS0) .htxeS0 ∧ s.cfg.rxOwnTx = true ∧ s.ctrl.txeFill ≠ 0) ∧
    (∃ s, State.At s .fg (frameAt .htxe .teL7) .teL7 ∧
      s.cfg.tsBracketMax < (s.clock - (frameAt .htxe .teL7).loc.t0).toNat) ∧
    (∃ s, State.At s .fg (foreignTag .teL5) .teL5 ∧
      s.cfg.txd ≤ (unpackTxe s.cfg.pack (foreignTag .teL5).loc.v0 (foreignTag .teL5).loc.v1).tag.toNat) ∧
    (∃ s, State.At s .fg (htxeFrame .teL9) .teL9 ∧ (htxeFrame .teL9).loc.eget = s.ctrl.txeGet ∧ 0 < s.ctrl.txeFill) :=
  ⟨fun i l => ⟨at_onFg i l _ rfl, rfl, (by decide : ready.ctrl.txeFill = 0),
      (by decide : (ready.clock - Locals.empty.t0).toNat ≤ ready.cfg.tsBracketMax)⟩,
    ⟨onFg (frameAt .htxe .htxeS0) ownTx, at_onFg _ _ _ rfl, by decide⟩,
    ⟨onFg (frameAt .htxe .htxeS0) (ownTx.setCtrlAt 0 { readyCtrl with txeFill := 2 }), at_onFg _ _ _ rfl, by decide⟩,
    ⟨onFg (frameAt .htxe .teL7) { ready with clock := 101 }, at_onFg _ _ _ rfl, by decide⟩,
    ⟨onFg (foreignTag .teL5) ready, at_frame _ _ rfl, by decide⟩,
    ⟨onFg (htxeFrame .teL9) (withCtrl { readyCtrl with txeFill := 1 }), at_frame _ _ rfl, by decide⟩⟩

theorem witness_TsrecReconciles :
    (∀ l, (onFg (frameAt (.tsrec 0xFFF0) l) ready).At .fg (frameAt (.tsrec 0xFFF0) l) l) ∧
    (∃ s, State.At s .fg (frameAt (.tsrec 0xFFF0) .tsrecS3) .tsrecS3 ∧
      (s.clock - (frameAt (.tsrec 0xFFF0) .tsrecS3).loc.t0).toNat = s.cfg.tsBracketMax) ∧
    (∃ s, State.At s .fg (frameAt (.tsrec 0xFFF0) .tsrecS3) .tsrecS3 ∧
      (s.clock - (frameAt (.tsrec 0xFFF0) .tsrecS3).loc.t0).toNat = s.cfg.tsBracketMax + 1) :=
  ⟨fun l => at_onFg _ l _ rfl,
    ⟨onFg (frameAt (.tsrec 0xFFF0) .tsrecS3) { ready with clock := 100 }, at_onFg _ _ _ rfl, by decide⟩,
    ⟨onFg (frameAt (.tsrec 0xFFF0) .tsrecS3) { ready with clock := 101 }, at_onFg _ _ _ rfl, by decide⟩⟩

theorem witness_RpsrDecodesStatus : (onFg (frameAt .rpsr .rpsrS1) ready).At .fg (frameAt .rpsr .rpsrS1) .rpsrS1 :=
  at_onFg _ _ _ rfl

theorem witness_LastErrorCodesMapOntoCounters :
    Cfg.reference.valid = true ∧ lecClass Cfg.reference 6 = some .crc ∧ ErrClass.crc ≠ .bit0 := by decide

theorem witness_UpderrReadsBothRegisters :
    (∀ l, (onFg (frameAt .upderr l) ready).At .fg (frameAt .upderr l) l ∧
      (onFg (frameAt .upderr l) ready).cfg.ecrClearOnRead = true) ∧
    (∃ s, State.At s .fg (frameAt .upderr .upderrS1) .upderrS1 ∧ s.cfg.ecrClearOnRead = false) :=
  ⟨fun l => ⟨at_onFg _ l _ rfl, rfl⟩,
    ⟨onFg (frameAt .upderr .upderrS1) { ready with cfg := { Cfg.reference with ecrClearOnRead := false } },
      at_onFg _ _ _ rfl, rfl⟩⟩

/-- A machine about to take the first step of `i`, nothing else going on. -/
theorem fresh_onFg (i : Instr) (s : State) (h : s.cfg.valid = true) (hq : s.sched = []) (hi : s.isPort.frame = none) :
    (onFg (Frame.start i) s).Fresh i :=
  ⟨h, hq, hi, rfl⟩

theorem witness_InitEndsConfigured :
    ∃ s, State.Fresh s (.init 1) ∧ (1 : BitVec 8).toNat < s.cfg.numDev ∧ Memory.wf s.mem = true :=
  ⟨onFg (Frame.start (.init 1)) State.reset, fresh_onFg _ _ (by decide) rfl rfl, by decide, by decide⟩

theorem witness_AclrClearsTheTable :
    ∃ s, State.Fresh s .aclr ∧ Memory.wf s.mem = true ∧ s.regs.cstate.enabled = true ∧
      s.ctrl.mode = { init := false, cce := false, fd := false } ∧ s.ctrl.Programmed s.cfg :=
  ⟨onFg (Frame.start .aclr) ready, fresh_onFg _ _ (by decide) rfl rfl, by decide, rfl, by decide,
    by constructor <;> decide⟩

theorem witness_SetspeedReprogramsTheTiming : (onFg (Frame.start .setspeed) ready).Fresh .setspeed :=
  fresh_onFg _ _ (by decide) rfl rfl

/-- The ready machine with `n` messages waiting and the TX ring's put index at its last slot. -/
def sending (n : Nat) : State := { withCtrl { readyCtrl with txPut := 1 } with source := List.replicate n sampleMsg }

theorem witness_HtxMovesMessagesIntoTheRing :
    ∀ n ∈ [0, 2, 3], ∃ s, State.Fresh s .htx ∧ Memory.wf s.mem = true ∧ s.cfg.elementsFit = true ∧
      s.ctrl.txc.count = s.cfg.txd ∧ s.ctrl.txPut < s.cfg.txd ∧ s.ctrl.txReq = [] ∧ s.source.length = n :=
  fun n _ => ⟨onFg (Frame.start .htx) (sending n), fresh_onFg _ _ (by decide : Cfg.reference.valid = true) rfl rfl,
    (by decide : Memory.wf [] = true), (by decide : Cfg.reference.elementsFit = true),
    (by decide : (sending 0).ctrl.txc.count = (sending 0).cfg.txd),
    (by decide : (sending 0).ctrl.txPut < (sending 0).cfg.txd), (by decide : (sending 0).ctrl.txReq = []),
    List.length_replicate⟩

theorem witness_HrxOnAnEmptyRing : ∃ s, State.Fresh s .hrx ∧ s.cfg.rxOwnTx = false ∧ s.ctrl.rxFill = 0 :=
  ⟨onFg (Frame.start .hrx) ready, fresh_onFg _ _ (by decide) rfl rfl, rfl, by decide⟩

theorem witness_HrxDrainsInFifoOrder :
    ∃ s, State.Fresh s .hrx ∧ s.cfg.rxOwnTx = false ∧ s.ctrl.rxc.count = s.cfg.rxd ∧ s.ctrl.rxFill = s.cfg.rxd ∧
      s.ctrl.rxFill ≤ s.cfg.rxd ∧ s.ctrl.rxGet < s.cfg.rxd :=
  ⟨onFg (Frame.start .hrx) (withCtrl { readyCtrl with rxFill := 4, rxGet := 3 }),
    fresh_onFg _ _ (by decide) rfl rfl, by decide⟩

theorem witness_HtxeDeliversOwnTransmissions :
    ∃ s, State.Fresh s .htxe ∧ s.cfg.rxOwnTx = true ∧ s.ctrl.txec.count = s.cfg.txed ∧ s.ctrl.txeFill = 2 ∧
      s.ctrl.txeFill ≤ s.cfg.txed ∧ s.ctrl.txeGet < s.cfg.txed ∧
      ∀ i < s.cfg.txed, (s.eventAt i).tag.toNat < s.cfg.txd :=
  ⟨onFg (Frame.start .htxe) (ownTx.setCtrlAt 0 { readyCtrl with txeFill := 2, txeGet := 1 }),
    fresh_onFg _ _ (by decide) rfl rfl, by decide⟩

theorem ready_inv : ready.Inv := by
  refine ⟨by decide, by decide, ?_, ?_, ?_, by decide, ?_, ?_, by decide, by decide⟩
  · intro c f h; cases c <;> cases h
  · intro c f h; cases c <;> cases h
  · intro f h; cases h
  · intro f h; cases h
  · intro f h; cases h

theorem witness_EveryStepGoesOnAndKeepsTheInvariant : ready.Inv ∧ (inSection .htxL8).Inv :=
  ⟨ready_inv, inSection_inv _ rfl rfl⟩

theorem ready_cursors : ready.CursorsInRange := by
  intro d
  have h : ready.ctrlAt d = if d = 0 then readyCtrl else Ctrl.powerOn := by
    show (State.reset.setCtrlAt 0 readyCtrl).ctrlAt d = _
    rw [ctrlAt_setCtrlAt]
    split
    · rfl
    · simp [State.reset, State.resetWith, State.ctrlAt]
  rw [h]
  split <;> constructor <;> decide

theorem witness_RingCursorsStayInRange :
    ready.CursorsInRange ∧ (∃ t, step ready = .next t) ∧
    (withCtrl { readyCtrl with txReq := [0], txPut := 1 }).ctrl.txPut ∉
      (withCtrl { readyCtrl with txReq := [0], txPut := 1 }).ctrl.txReq :=
  ⟨ready_cursors, ⟨ready, step_quiet (by decide) rfl⟩, by decide⟩

theorem witness_EnabledMeansOnTheBus :
    ready.Inv ∧ ready.EnabledMeansOnBus ∧ ready.regs.cstate.enabled = true ∧ ready.disabling = false ∧
    (∀ d r, ready.mover ≠ .ctrl d (.outsideMode r)) ∧ ∃ t, step ready = .next t :=
  ⟨ready_inv, fun _ _ => by decide, rfl, rfl, fun _ _ => nofun, ready, step_quiet (by decide) rfl⟩

theorem witness_ErrorCountersAreSticky :
    (∃ t, step (onFg (frameAt .rpsr .rpsrS1) ready) = .next t) ∧ (onFg (frameAt .rpsr .rpsrS1) ready).mover ≠ .reset ∧
    ¬ (onFg (frameAt .rpsr .rpsrS1) ready).startsInit :=
  ⟨⟨_, by rw [step_quiet (by decide) rfl]; rfl⟩, by decide, fun ⟨_, c, f, dev, hc, ho, _⟩ => by
    rw [current_fg rfl rfl] at hc
    cases hc
    cases ho⟩

theorem witness_OnlyResetEndsTheInstance :
    (∃ t, step (onFg (frameAt (.init 1) .initS0) ready) = .next t ∧
      t.regs.cstate.dev ≠ (onFg (frameAt (.init 1) .initS0) ready).regs.cstate.dev) ∧
    (∃ t, step (onFg (frameAt (.init 1) .initS0) State.reset) = .next t ∧
      t.regs.cstate.inst ≠ (onFg (frameAt (.init 1) .initS0) State.reset).regs.cstate.inst) ∧
    (onFg (frameAt (.init 1) .initS0) ready).mover ≠ .reset ∧ ready.regs.cstate.inst = true ∧ ¬ ready.startsInit :=
  ⟨⟨_, by rw [step_quiet (by decide) rfl]; rfl, by decide⟩, ⟨_, by rw [step_quiet (by decide) rfl]; rfl, by decide⟩,
    by decide, rfl, fun ⟨_, c, f, dev, hc, _⟩ => by cases hc⟩

theorem witness_SolverResultsAreInBounds :
    Cfg.reference.valid = true ∧ (solve Cfg.reference 80000000 500000 875 125).fb = false ∧
    (solve Cfg.reference 2000000 1000000 875 125).fb = true := by decide

theorem witness_SolverSearchStopsFirst :
    1 ≤ Cfg.reference.prescMax ∧ fits Cfg.reference 875 125 (quantaPerBit 80000000 500000 1) = true ∧
    fits Cfg.reference 875 125 (quantaPerBit 2000000 1000000 1) = false ∧
    1 < (solve Cfg.reference 80000000 125000 875 125).presc := by decide

theorem witness_ReconciliationIsExactWhenClocksAreLocked :
    (0xFFF0 ≤ 0x10010 ∧ 0x10010 < 0xFFF0 + 2 ^ 16) ∧ (5 ≤ 5 ∧ 5 < 5 + 2 ^ 16) ∧ (7 ≤ 7 + 65535 ∧ 7 + 65535 < 7 + 2 ^ 16) := by
  decide

theorem witness_AaddAdmitsExactlyItsMask :
    ∃ s, State.Fresh s (.aadd 0x123 0x7FF) ∧ Memory.wf s.mem = true ∧ s.cfg.elementsFit = true ∧
      s.ctrl.fltc = { base := BitVec.ofNat 16 s.cfg.offFlt, count := s.cfg.maxf } ∧
      s.regs.fcount.toNat < s.cfg.maxf ∧ memRead s (s.cfg.fltWord s.regs.fcount.toNat) = 0 :=
  ⟨onFg (Frame.start (.aadd 0x123 0x7FF)) ready, fresh_onFg _ _ (by decide) rfl rfl, by decide⟩

theorem ready_programmed : ready.ctrl.Programmed ready.cfg := by constructor <;> decide

/-- The ready machine with one filter that admits every identifier. -/
def listening : State := memWrite ready 0x00 (aaddWord Cfg.reference 0 0)

theorem witness_ReceptionFollowsTheContract :
    listening.cfg.valid = true ∧ listening.cfg.elementsFit = true ∧ Memory.wf listening.mem = true ∧
    (0 : BitVec 8).toNat < listening.cfg.numDev ∧ (listening.ctrlAt 0).Programmed listening.cfg ∧
    (listening.ctrlAt 0).gfc = { rejNomatch := true, rejRemote := true } ∧ (listening.ctrlAt 0).mode.init = false ∧
    (listening.ctrlAt 0).rxGet < listening.cfg.rxd ∧ (listening.ctrlAt 0).rxFill ≤ listening.cfg.rxd ∧
    anyFilterMatches listening.cfg listening.mem (listening.ctrlAt 0) 0x7FF = true ∧
    anyFilterMatches ready.cfg ready.mem (ready.ctrlAt 0) 0x7FF = false ∧
    ({ Cfg.reference with rxOverwrite := true }).valid = true :=
  ⟨by decide, by decide, by decide, by decide, by constructor <;> decide, by decide, by decide, by decide, by decide,
    by decide, by decide, by decide⟩

/-- The listening machine with its RX ring full, blocking or overwriting. -/
def listeningFull (overwrite : Bool) : State :=
  { listening.setCtrlAt 0
      { readyCtrl with rxFill := 4, rxGet := 3, rxc := { base := 0x10, count := 4, overwrite := overwrite } } with
    cfg := { Cfg.reference with rxOverwrite := overwrite } }

theorem witness_ReceptionFollowsTheContract_full :
    ∀ o, (listeningFull o).cfg.valid = true ∧ Memory.wf (listeningFull o).mem = true ∧
      ((listeningFull o).ctrlAt 0).Programmed (listeningFull o).cfg ∧
      ((listeningFull o).ctrlAt 0).gfc = { rejNomatch := true, rejRemote := true } ∧
      ((listeningFull o).ctrlAt 0).mode.init = false ∧ ((listeningFull o).ctrlAt 0).rxGet < (listeningFull o).cfg.rxd ∧
      ((listeningFull o).ctrlAt 0).rxFill = (listeningFull o).cfg.rxd ∧ (listeningFull o).cfg.rxOverwrite = o ∧
      anyFilterMatches (listeningFull o).cfg (listeningFull o).mem ((listeningFull o).ctrlAt 0) 0x7FF = true := by
  intro o
  refine ⟨?_, ?_, ?_, ?_, ?_, ?_, ?_, rfl, ?_⟩
  case refine_3 => cases o <;> constructor <;> decide
  all_goals cases o <;> decide

/-- The listening machine with an accepted frame in hand and `n` slots of the RX ring filled, blocking or overwriting. -/
def holding (overwrite : Bool) (n : Nat) : State :=
  let s := listeningFull overwrite
  s.setCtrlAt 0 { s.ctrlAt 0 with rxFill := n, rxHeld := [(sampleFrame, 0x1234)] }

theorem witness_StoringFollowsTheContract :
    ∀ o, ∀ n ∈ [0, 3, 4], (holding o n).cfg.valid = true ∧ (holding o n).cfg.elementsFit = true ∧
      Memory.wf (holding o n).mem = true ∧ (0 : BitVec 8).toNat < (holding o n).cfg.numDev ∧
      ((holding o n).ctrlAt 0).Programmed (holding o n).cfg ∧ ((holding o n).ctrlAt 0).mode.init = false ∧
      ((holding o n).ctrlAt 0).rxGet < (holding o n).cfg.rxd ∧ ((holding o n).ctrlAt 0).rxFill = n ∧
      n ≤ (holding o n).cfg.rxd ∧ ((holding o n).ctrlAt 0).rxHeld = (sampleFrame, 0x1234) :: [] ∧
      (holding o n).cfg.rxd = 4 ∧ (holding o n).cfg.rxOverwrite = o := by
  intro o n hn
  refine ⟨?_, ?_, ?_, ?_, ?_, ?_, ?_, ?_, ?_, ?_, ?_, ?_⟩
  case refine_5 => simp at hn; rcases hn with rfl | rfl | rfl <;> cases o <;> constructor <;> decide
  all_goals simp at hn; rcases hn with rfl | rfl | rfl <;> cases o <;> decide

/-- The ready machine with slot 0 requested; the slot asks for an event or not, and `n` events are stored. -/
def requesting (evt : Bool) (n : Nat) : State :=
  memWrite (withCtrl { readyCtrl with txReq := [0], txPut := 1, txeFill := n }) 0x54 (if evt then 0x00800000 else 0)

theorem witness_TransmissionFollowsTheContract :
    ∀ evt, ∀ n ∈ [0, 1, 2], (requesting evt n).cfg.valid = true ∧ (requesting evt n).cfg.elementsFit = true ∧
      Memory.wf (requesting evt n).mem = true ∧ (0 : BitVec 8).toNat < (requesting evt n).cfg.numDev ∧
      ((requesting evt n).ctrlAt 0).Programmed (requesting evt n).cfg ∧
      ((requesting evt n).ctrlAt 0).mode.init = false ∧ ((requesting evt n).ctrlAt 0).txReq = 0 :: [] ∧
      0 < (requesting evt n).cfg.txd ∧ ((requesting evt n).ctrlAt 0).txeFill = n ∧ n ≤ (requesting evt n).cfg.txed ∧
      (unpackTxCtl (requesting evt n).cfg.pack (memRead (requesting evt n) ((requesting evt n).cfg.txWord 0 1))).evt =
        evt := by
  intro evt n hn
  refine ⟨?_, ?_, ?_, ?_, ?_, ?_, ?_, ?_, ?_, ?_, ?_⟩
  case refine_5 => simp at hn; rcases hn with rfl | rfl | rfl <;> cases evt <;> constructor <;> decide
  all_goals simp at hn; rcases hn with rfl | rfl | rfl <;> cases evt <;> decide

/-- The ready machine with both slots requested and `tx_put` a slot that stays requested. -/
def requestingBoth : State := withCtrl { readyCtrl with txReq := [0, 1], txPut := 1, txSent := [(0, 9)] }

theorem witness_TransmissionFollowsTheContract_put :
    requestingBoth.cfg.valid = true ∧ requestingBoth.cfg.elementsFit = true ∧ Memory.wf requestingBoth.mem = true ∧
    (0 : BitVec 8).toNat < requestingBoth.cfg.numDev ∧ (requestingBoth.ctrlAt 0).Programmed requestingBoth.cfg ∧
    (requestingBoth.ctrlAt 0).mode.init = false ∧ (requestingBoth.ctrlAt 0).txReq = 0 :: [1] ∧
    0 < requestingBoth.cfg.txd ∧ (requestingBoth.ctrlAt 0).txeFill ≤ requestingBoth.cfg.txed ∧
    (requestingBoth.ctrlAt 0).txPut ∈ [1] ∧ (requestingBoth.ctrlAt 0).txPut < requestingBoth.cfg.txd ∧
    [1].length < requestingBoth.cfg.txd :=
  ⟨by decide, by decide, by decide, by decide, by constructor <;> decide, by decide, by decide, by decide, by decide,
    by decide, by decide, by decide⟩

theorem witness_InitialisationModeIsSilent : (State.reset.ctrlAt 0).mode.init = true := by decide

theorem witness_ZonesAreDisjointAndAligned :
    Cfg.reference.valid = true ∧ Cfg.reference.elementsFit = true ∧ 3 < Cfg.reference.maxf ∧ 3 < Cfg.reference.rxd ∧
    1 < Cfg.reference.txd ∧ 1 < Cfg.reference.txed := by decide

end Sys2Proof.Tests
end

section
/-! PROOF. Device-register records survive packing (`00_scope.md` R12, `20_memory.md` R113, `93_implementation_defined.md`
U20). Fields of a word are read one by one: a field distributes over `|||`, reads back what was put at its own place, and
is zero on what was put elsewhere. A bit layout follows from these rules and the bounds of R12; for any other packing
reading back is part of `Cfg.valid`. -/

namespace Sys2Proof.Machine

/-! Fields of a word. -/

@[simp] theorem getField_or (a b : Word) (lo n : Nat) :
    getField (a ||| b) lo n = getField a lo n ||| getField b lo n := by
  simp [getField, BitVec.extractLsb'_or]

@[simp] theorem getBit_or (a b : Word) (lo : Nat) : getBit (a ||| b) lo = (getBit a lo || getBit b lo) := by
  simp [getBit]

theorem getLsbD_putField {n : Nat} (v : BitVec n) (lo i : Nat) :
    (putField v lo).getLsbD i = (decide (i < 32) && (decide (lo ≤ i) && v.getLsbD (i - lo))) := by
  by_cases hi : i < 32 <;> by_cases hlo : lo ≤ i
  · simp [putField, hi, hlo, Nat.not_lt.mpr hlo]
  all_goals simp [putField, hi, hlo, Nat.lt_of_not_le]

@[simp] theorem getField_putField_same {n lo : Nat} (v : BitVec n) (h : lo + n ≤ 32) :
    getField (putField v lo) lo n = v := by
  apply BitVec.eq_of_getLsbD_eq
  intro i hi
  rw [getField, BitVec.getLsbD_extractLsb', getLsbD_putField]
  simp [hi, show lo + i < 32 by omega]

@[simp] theorem getField_putField_apart {n m lo lo' : Nat} (v : BitVec m) (h : lo + n ≤ lo' ∨ lo' + m ≤ lo) :
    getField (putField v lo') lo n = 0 := by
  apply BitVec.eq_of_getLsbD_eq
  intro i hi
  have hz : lo' ≤ lo + i → v.getLsbD (lo + i - lo') = false := fun _ => BitVec.getLsbD_of_ge _ _ (by omega)
  rw [getField, BitVec.getLsbD_extractLsb', getLsbD_putField]
  simpa using fun _ _ => hz

@[simp] theorem getBit_putField_apart {m lo lo' : Nat} (v : BitVec m) (h : lo < lo' ∨ lo' + m ≤ lo) :
    getBit (putField v lo') lo = false := by
  have hz : lo' ≤ lo → v.getLsbD (lo - lo') = false := fun _ => BitVec.getLsbD_of_ge _ _ (by omega)
  rw [getBit, getLsbD_putField]
  simpa using fun _ => hz

@[simp] theorem getBit_putBit_same {lo : Nat} (b : Bool) (h : lo < 32) : getBit (putBit b lo) lo = b := by
  rw [getBit, putBit, getLsbD_putField]
  simp [h]

@[simp] theorem getBit_putBit_apart {lo lo' : Nat} (b : Bool) (h : lo ≠ lo') : getBit (putBit b lo') lo = false :=
  getBit_putField_apart _ (by omega)

@[simp] theorem getField_putBit_apart {n lo lo' : Nat} (b : Bool) (h : lo + n ≤ lo' ∨ lo' < lo) :
    getField (putBit b lo') lo n = 0 :=
  getField_putField_apart _ (by omega)

/-! Values in a field. -/

theorem baseOf_bits {base : BitVec 16} (h : base.toNat % 4 = 0) : base.extractLsb' 2 14 ++ 0#2 = base := by
  apply BitVec.eq_of_toNat_eq
  have := base.isLt
  rw [BitVec.toNat_append, BitVec.extractLsb'_toNat, Nat.shiftRight_eq_div_pow, Nat.shiftLeft_eq]
  simp
  omega

theorem minusOne_plusOne {v : Word} {n : Nat} (hn : n ≤ 32) (h1 : 1 ≤ v.toNat) (h2 : v.toNat ≤ 2 ^ n) :
    ((v - 1#32).setWidth n).setWidth 32 + 1#32 = v := by
  have hv : (v - 1#32).toNat = v.toNat - 1 := BitVec.toNat_sub_of_le (by simpa [BitVec.le_def] using h1)
  have hf : ((v - 1#32).setWidth n).setWidth 32 = v - 1#32 := by
    apply BitVec.eq_of_toNat_eq
    have := (v - 1#32).isLt
    rw [BitVec.toNat_setWidth_of_le hn, BitVec.toNat_setWidth, Nat.mod_eq_of_lt (by omega)]
  rw [hf, BitVec.sub_add_cancel]

/-! Bounds of a valid configuration, and reading back under each packing. -/

theorem depths_of_rangesValid {cfg : Cfg} (h : cfg.rangesValid = true) :
    cfg.seg1Max ≤ 256 ∧ cfg.seg2Max ≤ 128 ∧ cfg.maxf ≤ 128 ∧ cfg.rxd ≤ 64 ∧ cfg.txd ≤ 32 ∧ cfg.txed ≤ 32 := by
  simp only [Cfg.rangesValid, decide_eq_true_eq] at h
  omega

theorem irqOf_irqWord (r : IrqSet) : irqOf (irqWord r) = r := by
  simp [irqOf, irqWord]

theorem getBit_gfcWord_rejNomatch (r : GfcReg) : getBit (gfcWord r) 5 = r.rejNomatch := by
  rcases r with ⟨_ | _, _ | _⟩ <;> rfl

theorem getBit_gfcWord_rejRemote (r : GfcReg) : getBit (gfcWord r) 0 = r.rejRemote := by
  rcases r with ⟨_ | _, _ | _⟩ <;> rfl

/-- The bits of U20 are wide enough for every legal record: counts and depths are bounded by R12, a prescaler by the
width of its field. -/
theorem referenceRecord_referenceWord {cfg : Cfg} (hr : cfg.rangesValid = true) (hp : cfg.prescMax ≤ 512) {r : DevRec}
    (h : r.legal cfg = true) : referenceRecord r.reg (referenceWord r) = r := by
  obtain ⟨hseg1, hseg2, hmaxf, hrxd, htxd, htxed⟩ := depths_of_rangesValid hr
  cases r <;> simp only [DevRec.legal, decide_eq_true_eq] at h <;> simp only [DevRec.reg, referenceWord, referenceRecord]
  case gfc r => simp [getBit_gfcWord_rejNomatch, getBit_gfcWord_rejRemote]
  case ie r | ils r | ir r => simp [irqOf_irqWord]
  case btr r => simp (disch := omega) [getPlusOne, putMinusOne, minusOne_plusOne]
  case fltc r | rxc r | txc r | txec r =>
    simp (disch := omega) [baseOf, baseField, getNat, putNat, baseOf_bits, Nat.mod_eq_of_lt]
  case rxs r | rxa i | txs r | txes r | txea i => simp (disch := omega) [getNat, putNat, Nat.mod_eq_of_lt]
  case mode r | psr r | ecr r | tscnt c => simp

theorem readsBack_iff {p : PackFns} {cfg : Cfg} {r : DevRec} :
    p.readsBack cfg r = true ↔ (r.legal cfg = true → p.decDev r.reg (p.encDev r) = r) := by
  cases h : r.legal cfg <;> simp [PackFns.readsBack, h]

/-- `deviceLawful` speaks of counts of 8 bits; by R12 a legal record has no others. -/
theorem readsBack_of_deviceLawful {p : PackFns} {cfg : Cfg} (hr : cfg.rangesValid = true)
    (hp : p.deviceLawful cfg = true) {r : DevRec} (h : r.legal cfg = true) : p.readsBack cfg r = true := by
  obtain ⟨-, -, hmaxf, hrxd, htxd, htxed⟩ := depths_of_rangesValid hr
  simp only [PackFns.deviceLawful, PackFns.configLawful, PackFns.ringLawful, PackFns.statusLawful, Bool.and_eq_true,
    decide_eq_true_eq] at hp
  obtain ⟨⟨hmode, hbtr, hgfc, hfltc, hrxc, htxc, htxec⟩, ⟨hrxs, htxes, htxs, hrxa, htxea, htxrq⟩,
    hpsr, hecr, hie, hils, hir, htscnt⟩ := hp
  cases r <;> simp only [DevRec.legal, decide_eq_true_eq] at h
  case mode r => exact hmode r.init r.cce r.fd
  case btr r => exact hbtr r.presc r.seg1 r.seg2 r.sjw
  case gfc r => exact hgfc r.rejNomatch r.rejRemote
  case fltc r => simpa (disch := omega) [Nat.mod_eq_of_lt] using hfltc r.base (BitVec.ofNat 8 r.count)
  case rxc r => simpa (disch := omega) [Nat.mod_eq_of_lt] using hrxc r.base (BitVec.ofNat 8 r.count) r.overwrite
  case rxs r =>
    simpa (disch := omega) [Nat.mod_eq_of_lt] using hrxs (BitVec.ofNat 8 r.fill) (BitVec.ofNat 8 r.get)
  case rxa i => simpa (disch := omega) [Nat.mod_eq_of_lt] using hrxa (BitVec.ofNat 8 i)
  case txc r => simpa (disch := omega) [Nat.mod_eq_of_lt] using htxc r.base (BitVec.ofNat 8 r.count)
  case txs r => simpa (disch := omega) [Nat.mod_eq_of_lt] using htxs (BitVec.ofNat 8 r.put) r.full
  case txrq bits => exact htxrq bits
  case txec r => simpa (disch := omega) [Nat.mod_eq_of_lt] using htxec r.base (BitVec.ofNat 8 r.count)
  case txes r =>
    simpa (disch := omega) [Nat.mod_eq_of_lt] using htxes (BitVec.ofNat 8 r.fill) (BitVec.ofNat 8 r.get)
  case txea i => simpa (disch := omega) [Nat.mod_eq_of_lt] using htxea (BitVec.ofNat 8 i)
  case psr r => exact hpsr r.lec r.warning r.busOff
  case ecr r => exact hecr r.recv r.tec r.cel
  case ie r => exact hie r.rxNew r.txDone
  case ils r => exact hils r.rxNew r.txDone
  case ir r => exact hir r.rxNew r.txDone
  case tscnt c => exact htscnt c

theorem unpackDev_packDev {cfg : Cfg} (hv : cfg.valid = true) {r : DevRec} (h : r.legal cfg = true) :
    unpackDev cfg.pack r.reg (packDev cfg.pack r) = r := by
  simp only [Cfg.valid, Bool.and_eq_true] at hv
  obtain ⟨hr, -, -, hpack, -⟩ := hv
  cases hc : cfg.pack <;> simp only [Cfg.packValid, hc, Bool.and_eq_true, decide_eq_true_eq] at hpack
  case layout l => exact referenceRecord_referenceWord hr hpack.1 h
  case other n => exact readsBack_iff.mp (readsBack_of_deviceLawful hr hpack.2 h) h

/-- The device registers, in the order of `DevReg`. -/
def deviceRegisters : List DevReg :=
  [.mode, .btr, .gfc, .fltc, .rxc, .rxs, .rxa, .txc, .txs, .txrq, .txec, .txes, .txea, .psr, .ecr, .ie, .ils, .ir, .tscnt]

theorem mem_deviceRegisters (r : DevReg) : r ∈ deviceRegisters := by cases r <;> decide

theorem devOffset_reference_injective : Function.Injective (devOffset Pack.reference) := by
  have hnodup : (deviceRegisters.map (devOffset Pack.reference)).Nodup := by decide
  exact fun r q => List.inj_on_of_nodup_map hnodup (mem_deviceRegisters r) (mem_deviceRegisters q)

/-- Settles O59: a word determines the legal record it packs, since unpacking it gives the record back. -/
theorem deviceRegistersPackFaithfully : Obligations.DeviceRegistersPackFaithfully := by
  intro cfg hv
  refine ⟨fun r h => unpackDev_packDev hv h, fun r q hr hq hreg hw => ?_, fun r q h => devOffset_reference_injective h⟩
  calc r = unpackDev cfg.pack r.reg (packDev cfg.pack r) := (unpackDev_packDev hv hr).symm
    _ = unpackDev cfg.pack q.reg (packDev cfg.pack q) := by rw [hreg, hw]
    _ = q := unpackDev_packDev hv hq

end Sys2Proof.Machine
end

section
/-! PROOF. The steps of the system and which frame they run (`10_state.md` R41, R42, `20_memory.md` R120). The current frame
reads nothing but the two frames; placing a command leaves nothing that could come before it. -/

namespace Sys2Proof.Machine

/-- An FG frame steps in its critical section, or with no IS frame (R42). -/
theorem current_fg_of_crit {s : State} {g : Frame} (hg : s.frame .fg = some g)
    (h : g.crit = true ∨ s.frame .is = none) : s.current = some (.fg, g) := by
  rw [frame_fg] at hg
  rw [frame_is] at h
  cases his : s.isPort.frame with
  | none => exact current_fg his hg
  | some f => simp [State.current, State.nextCtx, his, hg, h.resolve_right (by simp [his])]

/-- While the IS frame steps, no FG frame is in its critical section (R42). -/
theorem fg_crit_of_current_is {s : State} {f g : Frame} (h : s.current = some (.is, f)) (hg : s.frame .fg = some g) :
    g.crit = false := by
  cases hcrit : g.crit with
  | false => rfl
  | true => simp [current_fg_of_crit hg (.inl hcrit)] at h

/-- A step leaves the port of the other context as it is (`10_state.md` R43). -/
theorem exec_port_other {i : Instr} {s t : State} {c d : Ctx} {f : Frame} (hc : s.current = some (c, f))
    (h : exec i s = .next t) (hd : d ≠ c) : t.port d = s.port d := by
  obtain ⟨c', f', hc', -, hend | hgoon⟩ := exec_shape h <;> obtain ⟨rfl, rfl⟩ := by simpa [hc] using hc'
  · obtain ⟨u, g, e, rfl, hfg, his, -⟩ := hend
    rw [port_finish_other u g e hd]
    cases d <;> assumption
  · obtain ⟨u, g, l, rfl, hfg, his, -⟩ := hgoon
    rw [port_goto_other u g l hd]
    cases d <;> assumption

/-- Settles O13: the FG frame is not touched by a step of the IS frame, so what kept it from stepping before still does. -/
theorem isContextPreempts : Obligations.IsContextPreempts := by
  refine ⟨fun s f hf hcrit => current_is hf hcrit, fun s g hg h => current_fg_of_crit hg h, fun s => current_none,
    fun s t f hc h => ?_⟩
  have hfg : t.frame .fg = s.frame .fg := congrArg Port.frame (exec_port_other (d := .fg) hc h nofun)
  refine ⟨hfg, ?_⟩
  cases his : t.frame .is with
  | none => exact .inl rfl
  | some g => exact .inr ⟨g, current_is his fun g' hg' => fg_crit_of_current_is hc (hfg ▸ hg')⟩

/-- Everything a step that goes on can be: the current frame's operation, a stutter, or another agent's move. -/
theorem step_next_cases {s t : State} (h : step s = .next t) :
    (s.mover = .seq ∧ ∃ c f, s.current = some (c, f) ∧ exec f.op { s with sched := s.sched.tail } = .next t) ∨
    (s.mover = .seq ∧ s.current = none ∧ t = { s with sched := s.sched.tail }) ∨
    (s.mover ≠ .seq ∧ t = agentMove s.mover { s with sched := s.sched.tail }) := by
  have hv : s.cfg.valid = true := by
    by_contra hv
    simp [step, hv] at h
  have hcur : ({ s with sched := s.sched.tail } : State).current = s.current := rfl
  rcases step_cases hv with ⟨hm, he⟩ | ⟨hm, he⟩ <;> rw [he, nextMove_snd] at h
  · rw [sequencerStep, hcur] at h
    cases hc : s.current with
    | none => rw [hc] at h; cases h; exact .inr (.inl ⟨hm, rfl, rfl⟩)
    | some p => rw [hc] at h; exact .inl ⟨hm, p.1, p.2, rfl, h⟩
  · cases h
    exact .inr (.inr ⟨hm, rfl⟩)

/-- A legal word, placed, is its instruction's command on the FG port. -/
theorem withFetchWord_of_decode {w : Word} {i : Instr} (s : State) (h : decode w = .ok i) :
    s.withFetchWord 32 w.toNat = loadCommand i w s := by
  simp [State.withFetchWord, decodeTableWord, w.isLt, h, loadWord, Except.toOption]

theorem loadCommand_current (i : Instr) (w : Word) (s : State) : (loadCommand i w s).current = some (.fg, Frame.start i) :=
  current_fg rfl rfl

/-- Settles O8: the branches of `step` one by one; a placed command is current and has no turn before it. -/
theorem stepRunsTheFrame : Obligations.StepRunsTheFrame := by
  refine ⟨fun s c f hv hq hc => ?_, fun s c f rest hv hs hc => ?_, fun s m rest hv hs hm => ?_, fun s w i hv hw => ?_,
    fun s hv hq hc => ?_, fun s hv => ?_⟩
  · rw [step_quiet hv hq, sequencerStep_current hc]
  · rcases step_cases hv with ⟨-, h⟩ | ⟨hne, -⟩
    · simp only [nextMove, hs] at h
      rw [h]
      exact sequencerStep_current hc
    · simp [nextMove, hs] at hne
  · rcases step_cases hv with ⟨heq, -⟩ | ⟨-, h⟩
    · simp [nextMove, hs, hm] at heq
    · simpa only [nextMove, hs] using h
  · have hcur := loadCommand_current i w s
    rw [withFetchWord_of_decode s hw]
    refine ⟨?_, hcur⟩
    rw [step_quiet (s := loadCommand i w s) (by simpa [loadCommand] using hv) (by simp [loadCommand]),
      sequencerStep_current hcur]
    rfl
  · rw [step_quiet hv hq, sequencerStep, hc]
  · simp [step, hv]

end Sys2Proof.Machine
end

section
/-! PROOF. The host register map (`10_state.md` R52, with the bits of R45 and R46). A full-width access at a listed offset is
an access to that register by definition; what needs a proof is the offsets that are not listed, and the bits of the two
status words. -/

namespace Sys2Proof.Machine

/-- A parameter register is read at its own offset only (R31). -/
theorem hostReg_hostWriteReg_other {off other : Nat} (s : State) (v : Word) (hoff : off ∈ [0x10, 0x14, 0x18, 0x1C])
    (hne : other ≠ off) : hostReg (hostWriteReg s off v) other = hostReg s other := by
  simp only [List.mem_cons, List.not_mem_nil, or_false] at hoff
  rcases hoff with rfl | rfl | rfl | rfl <;> unfold hostReg <;> split <;> first | rfl | contradiction

/-- A write to a parameter register is no submission. -/
theorem hostWriteReg_ports {off : Nat} (s : State) (v : Word) (hoff : off ∈ [0x10, 0x14, 0x18, 0x1C]) :
    (hostWriteReg s off v).fgPort = s.fgPort ∧ (hostWriteReg s off v).isPort = s.isPort := by
  simp only [List.mem_cons, List.not_mem_nil, or_false] at hoff
  rcases hoff with rfl | rfl | rfl | rfl <;> exact ⟨rfl, rfl⟩

/-- Every offset but the ports and the parameter registers ignores writes (R34). -/
theorem hostWriteReg_ignored {off : Nat} (s : State) (v : Word)
    (hoff : off ∉ [0x00, 0x08, 0x10, 0x14, 0x18, 0x1C]) : hostWriteReg s off v = s := by
  unfold hostWriteReg
  split <;> simp_all

/-- An offset past the map reads 0 (R52). -/
theorem hostReg_past_map {off : Nat} (s : State) (hoff : 0x78 ≤ off) : hostReg s off = 0 := by
  unfold hostReg
  split <;> first | omega | rfl

/-- The bits of `CSTATE` (R45). -/
theorem cstateWord_bits (c : CState) :
    c.word.getLsbD 0 = c.inst ∧ c.word.getLsbD 1 = c.enabled ∧ c.word.getLsbD 2 = c.warning ∧
    c.word.getLsbD 3 = c.busOff ∧ c.word.getLsbD 4 = c.btFb ∧ c.word.extractLsb' 5 2 = c.health.code ∧
    c.word.getLsbD 7 = false ∧ c.word.extractLsb' 8 8 = c.dev ∧ c.word.extractLsb' 16 16 = 0 := by
  simp only [CState.word, BitVec.getLsbD_append, BitVec.extractLsb'_append_eq_ite, ↓reduceDIte, ↓reduceIte,
    Nat.reduceLT, Nat.reduceSub, Nat.reduceLeDiff]
  simp

/-- The bits of `STAT_c` (R46). -/
theorem statWord_bits (t : Stat) (busy : Bool) :
    (t.word busy).getLsbD 0 = busy ∧ (t.word busy).getLsbD 1 = t.done ∧ (t.word busy).getLsbD 2 = t.ok ∧
    (t.word busy).getLsbD 3 = t.bp ∧ (t.word busy).getLsbD 4 = t.ovr ∧ (t.word busy).extractLsb' 5 3 = 0 ∧
    (t.word busy).extractLsb' 8 4 = t.err.code ∧ (t.word busy).extractLsb' 12 4 = 0 ∧
    (t.word busy).extractLsb' 16 16 = t.n := by
  simp only [Stat.word, BitVec.getLsbD_append, BitVec.extractLsb'_append_eq_ite, ↓reduceDIte, ↓reduceIte,
    Nat.reduceLT, Nat.reduceSub, Nat.reduceLeDiff]
  simp

/-- A 16-bit parameter register holds the low half of what is written. -/
theorem toNat_setWidth_setWidth (v : Word) : ((v.setWidth 16).setWidth 32).toNat = v.toNat % 2 ^ 16 := by
  rw [BitVec.toNat_setWidth_of_le (by decide), BitVec.toNat_setWidth]

theorem hostWrite_aligned {off : Nat} (s : State) (v : Word) (h : off % 4 = 0) :
    hostWrite s off 4 v = hostWriteReg s off v := by
  simp [hostWrite, hostAligned, h]

/-- A write to a parameter register is seen at its own offset only, and is no submission (R31). -/
theorem hostWrite_param_frame {off : Nat} (s : State) (v : Word) (hoff : off ∈ [0x10, 0x14, 0x18, 0x1C]) :
    (∀ other, other ≠ off → hostRead (hostWrite s off 4 v) other 4 = hostRead s other 4) ∧
    (hostWrite s off 4 v).fgPort = s.fgPort ∧ (hostWrite s off 4 v).isPort = s.isPort := by
  have halign : ∀ off ∈ [0x10, 0x14, 0x18, 0x1C], off % 4 = 0 := by decide
  rw [hostWrite_aligned s v (halign off hoff)]
  exact ⟨fun other hne => by simp only [hostRead, hostReg_hostWriteReg_other s v hoff hne], hostWriteReg_ports s v hoff⟩

/-- Settles O12: the clauses over all offsets from the lemmas above, those at one offset by reading it. -/
theorem hostRegisterMap : Obligations.HostRegisterMap := by
  have wide {n : Nat} (b : BitVec n) (h : n ≤ 32) : (b.setWidth 32).toNat = b.toNat := BitVec.toNat_setWidth_of_le h
  refine ⟨fun s v => ⟨rfl, rfl, toNat_setWidth_setWidth v, toNat_setWidth_setWidth v⟩,
    fun s v off hoff => hostWrite_param_frame s v hoff, fun s off v hoff => ?_, fun s off hoff => ?_,
    fun s => ⟨rfl, rfl, rfl, rfl, wide s.regs.pSp (by decide), wide s.regs.pRj (by decide), rfl, rfl, rfl, rfl, rfl, rfl, rfl,
      rfl, rfl, rfl, rfl, wide s.regs.recv (by decide), wide s.regs.tec (by decide), rfl, rfl, rfl, rfl, rfl, rfl, rfl, rfl⟩,
    fun s w hw => ?_, fun s c w hw => ?_⟩
  · simp [hostWrite, hostWriteReg_ignored s v hoff]
  · simp [hostRead, hostReg_past_map s hoff]
  · subst hw
    obtain ⟨hinst, henabled, hwarning, hbusOff, hbtFb, hhealth, hzero, hdev, hhigh⟩ := cstateWord_bits s.regs.cstate
    refine ⟨hinst, henabled, hwarning, hbusOff, hbtFb, (congrArg BitVec.toNat hhealth).trans ?_, hzero, hdev, hhigh⟩
    cases s.regs.cstate.health <;> rfl
  · have hword : w = (s.port c).stat.word (s.frame c).isSome := by cases c <;> exact hw
    subst hword
    obtain ⟨hbusy, hdone, hok, hbp, hovr, hzero, herr, hzero', hn⟩ := statWord_bits (s.port c).stat (s.frame c).isSome
    refine ⟨hbusy, hdone, hok, hbp, hovr, hzero, (congrArg BitVec.toNat herr).trans ?_, hzero', hn⟩
    cases (s.port c).stat.err <;> rfl

end Sys2Proof.Machine
end

section
/-! PROOF. What a step of an operation does outside its port, said once: to the host registers, to the bound controller, to
the message RAM (the "State written" lists of the operation rules, `10_state.md` R32 to R34, R45, R51, R55 to R58, R81). -/

namespace Sys2Proof.Machine

/-! Host registers. -/

@[simp] theorem clearEnabled_regs (s : State) :
    (clearEnabled s).regs = { s.regs with cstate := { s.regs.cstate with enabled := false } } := rfl

@[simp] theorem en1_regs (s : State) :
    (en1 s).regs = { s.regs with cstate := { s.regs.cstate with enabled := true } } := by
  simp [en1]

@[simp] theorem runSolve_regs (s : State) : (runSolve s).regs = storeTiming (solveRegs s.cfg s.regs) s.regs := rfl

@[simp] theorem storeTimestamp_regs (f : Frame) (stored : BitVec 16) (s : State) :
    (storeTimestamp f stored s).regs =
      { s.regs with tsAbs := absoluteTime s.regs.cpb f.loc.t1 f.loc.now16 stored } := rfl

/-- The host registers after a step of operation `i` at label `l`: which operation changes which of them. -/
inductive RegEffect (i : Instr) (l : Label) (s : State) : HostRegs → Prop where
  | keep : RegEffect i l s s.regs
  | bind (dev : BitVec 8) (hdev : dev.toNat < s.cfg.numDev) (hi : i = .init dev := by simp)
      (hl : l = .initS0 := by simp) : RegEffect i l s (initRegs dev s.regs)
  | disabled (hi : i = .disable ∨ i = .aclr := by simp) : RegEffect i l s (clearEnabled s).regs
  | enabled (hi : (∃ dev, i = .init dev) ∨ i = .enable ∨ i = .setspeed ∨ i = .aclr := by simp) :
      RegEffect i l s (en1 s).regs
  | solved (hi : i = .solve := by simp) : RegEffect i l s (runSolve s).regs
  | retimed (hi : (∃ dev, i = .init dev) ∨ i = .setspeed := by simp) : RegEffect i l s (wbt1 (clearEnabled s)).regs
  | filtersCounted (n : Word) (hi : i = .aclr ∨ (∃ id mask, i = .aadd id mask) := by simp) :
      RegEffect i l s { s.regs with fcount := n }
  | stamped (f : Frame) (stored : BitVec 16) (hi : (∃ ts, i = .tsrec ts) ∨ i = .hrx ∨ i = .htxe := by simp) :
      RegEffect i l s (storeTimestamp f stored s).regs
  | received (f : Frame) (stored : BitVec 16) (hi : i = .hrx := by simp) :
      RegEffect i l s { (storeTimestamp f stored s).regs with rxCount := s.regs.rxCount + 1 }
  | statusRead (hi : i = .rpsr ∨ i = .upderr := by simp) : RegEffect i l s (psr1 s).regs
  | countersRead (hi : i = .htx ∨ i = .upderr := by simp) : RegEffect i l s (ecr1 s).regs

/-! The bound controller. -/

/-- What a device write can do to the controller it reaches (`20_memory.md` R107, R130 to R138, U4, U8, U9). -/
inductive Ctrl.Written (k : Ctrl) : DevWrite → Ctrl → Prop where
  | ignored (w : DevWrite) : Written k w k
  | mode (r : ModeReg) : Written k (.mode r) (k.setMode r)
  | btr (r : BtrReg) : Written k (.btr r) { k with btr := r }
  | gfc (r : GfcReg) : Written k (.gfc r) { k with gfc := r }
  | fltc (r : ZoneReg) : Written k (.fltc r) { k with fltc := r }
  | rxc (r : RxcReg) : Written k (.rxc r) (k.setRxc r)
  | txc (r : ZoneReg) : Written k (.txc r) (k.setTxc r)
  | txec (r : ZoneReg) : Written k (.txec r) (k.setTxec r)
  | ie (r : IrqSet) : Written k (.ie r) { k with ie := r }
  | ils (r : IrqSet) : Written k (.ils r) { k with ils := r }
  | ir (r : IrqSet) : Written k (.ir r) { k with ir := IrqSet.clear k.ir r }
  | rxa (index get fill : Nat) : Written k (.rxa index) { k with rxGet := get, rxFill := fill }
  | txea (index get fill : Nat) : Written k (.txea index) { k with txeGet := get, txeFill := fill }
  | txrq (bits : Word) (put : Nat) (req : List Nat) (sent : List (Nat × BitVec 16)) :
    Written k (.txrq bits) { k with txPut := put, txReq := req, txSent := sent }

theorem writeConfig_ctrl (s : State) (k : Ctrl) : (writeConfig s k).ctrl = k ∨ (writeConfig s k).ctrl = s.ctrl := by
  rcases writeConfig_cases s k with h | h | h <;> rw [h]
  · exact .inl (ctrl_setCtrl s k)
  · exact .inl (ctrl_setCtrl s k)
  · exact .inr (ctrl_drawn s)

/-- A configuration write has its effect or is ignored (U4). -/
theorem Ctrl.Written.of_config {w : DevWrite} {s : State} {k : Ctrl} (hw : devWrite w s = writeConfig s k)
    (hk : s.ctrl.Written w k) : s.ctrl.Written w (devWrite w s).ctrl := by
  rw [hw]
  rcases writeConfig_ctrl s k with h | h <;> rw [h]
  · exact hk
  · exact .ignored w

/-- `settled` moves `tx_put` only. -/
theorem Ctrl.Written.settled {k k' : Ctrl} {bits : Word} (put : Nat) (req : List Nat) (sent : List (Nat × BitVec 16))
    (hk : k' = { k with txPut := put, txReq := req, txSent := sent }) : k.Written (.txrq bits) k'.settled := by
  subst hk
  rcases Ctrl.settled_cases { k with txPut := put, txReq := req, txSent := sent } with ⟨-, h⟩ | ⟨-, -, h⟩ <;> rw [h]
  · exact .txrq ..
  · exact .txrq ..

theorem devWrite_written (w : DevWrite) (s : State) : s.ctrl.Written w (devWrite w s).ctrl := by
  cases w with
  | mode r => simpa [devWrite] using .mode r
  | btr r => exact .of_config rfl (.btr r)
  | gfc r => exact .of_config rfl (.gfc r)
  | fltc r => exact .of_config rfl (.fltc r)
  | rxc r => exact .of_config rfl (.rxc r)
  | txc r => exact .of_config rfl (.txc r)
  | txec r => exact .of_config rfl (.txec r)
  | ie r => simpa [devWrite] using .ie r
  | ils r => simpa [devWrite] using .ils r
  | ir r => simpa [devWrite] using .ir r
  | rxa index =>
    simp only [devWrite, ackRx]
    split <;> simpa [ctrl_drawn] using .rxa ..
  | txea index =>
    simp only [devWrite, ackTxe]
    split <;> simpa [ctrl_drawn] using .txea ..
  | txrq bits =>
    simp only [devWrite, ringDoorbell]
    split
    · exact .ignored _
    · split <;> simp only [ctrl_drawn, ctrl_setCtrl] <;> exact .settled _ _ _ rfl

/-- The operations that issue a device write (R81). ENABLE alone never enters initialisation mode, and HRX alone clears an
interrupt condition, never `tx_done`. -/
def DevWrite.IssuedBy (i : Instr) : DevWrite → Prop
  | .mode r => (∃ dev, i = .init dev) ∨ i = .setspeed ∨ i = .aclr ∨ i = .disable ∨ (i = .enable ∧ r.init = false)
  | .btr _ => (∃ dev, i = .init dev) ∨ i = .setspeed
  | .gfc _ | .fltc _ | .rxc _ | .txc _ | .txec _ | .ie _ | .ils _ => ∃ dev, i = .init dev
  | .ir r => i = .hrx ∧ r.txDone = false
  | .rxa _ => i = .hrx
  | .txea _ => i = .hrx ∨ i = .htxe
  | .txrq _ => i = .htx

/-- The bound controller after a step of operation `i`. -/
inductive CtrlEffect (i : Instr) (s : State) : Ctrl → Prop where
  | keep : CtrlEffect i s s.ctrl
  | write (w : DevWrite) {k : Ctrl} (hi : w.IssuedBy i) (hk : s.ctrl.Written w k) : CtrlEffect i s k
  | readPsr (hi : i = .rpsr ∨ i = .upderr) : CtrlEffect i s s.ctrl.psrTaken
  | readEcr (hi : i = .htx ∨ i = .upderr) : CtrlEffect i s (Ctrl.ecrTaken s.cfg s.ctrl)

@[simp] theorem setCtrl_ctrl (s : State) : s.setCtrl s.ctrl = s := by
  simp [State.setCtrl, State.setCtrlAt, State.ctrl, State.ctrlAt]

theorem devWrite_ctrls (w : DevWrite) (s : State) : (devWrite w s).ctrls = (s.setCtrl (devWrite w s).ctrl).ctrls := by
  obtain ⟨k, n, h⟩ := devWrite_shape w s
  have hk : (devWrite w s).ctrl = k := by rw [h]; exact ctrl_setCtrl s k
  rw [hk, h]

/-! One step. -/

/-- The message RAM after a step: `storeTarget` says which word is stored. -/
def storedMem (s : State) (f : Frame) : Memory :=
  match storeTarget s f with
  | some (a, v) => Memory.storeWord s.mem a v
  | none => s.mem

/-- What a step of operation `i`, at the label of the frame `f`, does outside its port. -/
structure StepEffect (i : Instr) (f : Frame) (s t : State) : Prop where
  regs : RegEffect i f.seq s t.regs
  ctrls : ∃ k, CtrlEffect i s k ∧ t.ctrls = (s.setCtrl k).ctrls
  mem : t.mem = storedMem s { f with op := i }

namespace StepEffect

variable {i : Instr} {f : Frame} {s t : State}

/-- Ports are no part of the effect. -/
theorem moves {c : Ctx} {g : Frame} {l : Label} (h : StepEffect i f s t) : StepEffect i f s (goto c g l t) := by
  obtain ⟨hregs, hctrls, hmem⟩ := h
  constructor <;> simpa

theorem ends {c : Ctx} {g : Frame} {e : ResultCode} (h : StepEffect i f s t) : StepEffect i f s (finish c g e t) := by
  obtain ⟨hregs, hctrls, hmem⟩ := h
  constructor <;> simpa

/-- A branch of a label's rule. -/
theorem branch {p : Prop} [Decidable p] {u : State} (ht : StepEffect i f s t) (hu : StepEffect i f s u) :
    StepEffect i f s (if p then t else u) := by
  split <;> assumption

theorem idle (hm : storeTarget s { f with op := i } = none := by rfl) : StepEffect i f s s where
  regs := .keep
  ctrls := ⟨s.ctrl, .keep, by simp⟩
  mem := by simp [storedMem, hm]

theorem writes {w : DevWrite} (hi : w.IssuedBy i := by simp [DevWrite.IssuedBy])
    (hm : storeTarget s { f with op := i } = none := by rfl) : StepEffect i f s (devWrite w s) where
  regs := by simpa using .keep
  ctrls := ⟨_, .write w hi (devWrite_written w s), devWrite_ctrls w s⟩
  mem := by simp [storedMem, hm]

theorem stores {a : Nat} {v : Word} (hm : storeTarget s { f with op := i } = some (a, v) := by rfl) :
    StepEffect i f s (memWrite s a v) where
  regs := .keep
  ctrls := ⟨s.ctrl, .keep, by simp⟩
  mem := by simp [storedMem, hm]

/-- Registers computed after the step's call (`00_scope.md` R17). -/
theorem computes {r : HostRegs} (h : StepEffect i f s t) (hr : RegEffect i f.seq s r) : StepEffect i f s (t.setRegs r) :=
  ⟨hr, h.ctrls, h.mem⟩

/-- What the collaborators hold is no part of the effect. -/
theorem receives {m : RxMsg} (h : StepEffect i f s t) : StepEffect i f s (onReceived m t) := ⟨h.regs, h.ctrls, h.mem⟩

theorem takes (hm : storeTarget s { f with op := i } = none := by rfl) : StepEffect i f s (takeOutgoing s).2 where
  regs := by simpa using .keep
  ctrls := ⟨s.ctrl, .keep, by simp⟩
  mem := by simp [storedMem, hm]

theorem enables (hi : (∃ dev, i = .init dev) ∨ i = .enable ∨ i = .setspeed ∨ i = .aclr := by simp)
    (hm : storeTarget s { f with op := i } = none := by rfl) : StepEffect i f s (en1 s) := by
  refine .computes (.writes (w := .mode { init := false, cce := false, fd := false }) ?_ hm) (.enabled hi)
  rcases hi with h | h | h | h <;> simp [DevWrite.IssuedBy, h]

theorem retimes (hi : (∃ dev, i = .init dev) ∨ i = .setspeed := by simp)
    (hm : storeTarget s { f with op := i } = none := by rfl) : StepEffect i f s (wbt1 (clearEnabled s)) :=
  show StepEffect i f s (s.setRegs (wbt1 (clearEnabled s)).regs) from .computes (.idle hm) (.retimed hi)

theorem readsPsr (hi : i = .rpsr ∨ i = .upderr := by simp) (hm : storeTarget s { f with op := i } = none := by rfl) :
    StepEffect i f s (psr1 s) where
  regs := .statusRead hi
  ctrls := ⟨_, .readPsr hi, rfl⟩
  mem := by simp [storedMem, hm, psr1_eq]

theorem readsEcr (hi : i = .htx ∨ i = .upderr := by simp) (hm : storeTarget s { f with op := i } = none := by rfl) :
    StepEffect i f s (ecr1 s) where
  regs := .countersRead hi
  ctrls := ⟨_, .readEcr hi, rfl⟩
  mem := by rw [storedMem, hm]; rfl

/-- A bracket is dirty or clean (`45_timestamp.md` R322). -/
theorem brackets {c : Ctx} {g : Frame} {retry : Label} {on : Frame → State → State} (h : StepEffect i f s s)
    (hon : ∀ g, StepEffect i f s (on g s)) : StepEffect i f s (rc3 c g retry on s) := by
  rcases rc3_cases c g retry on s with ⟨-, he⟩ | ⟨-, he⟩ <;> rw [he]
  · exact h.moves
  · exact hon _

end StepEffect

/-! The operations, label by label. -/

/-- The drain of TX events, in the operations that inline it and from whatever label they enter it. -/
theorem drainStep_effect {i : Instr} {c : Ctx} {f g : Frame} {s t : State} (hi : i = .hrx ∨ i = .htxe)
    (h : drainStep c g s = .next t) : StepEffect i f s t := by
  have hm : storeTarget s { f with op := i } = none := by rcases hi with rfl | rfl <;> rfl
  have hidle : StepEffect i f s s := .idle hm
  unfold drainStep at h
  split at h <;> cases h
  -- `TE.L0` may return, `TE.L7` ends the bracket, `TE.L8` hands over and `TE.L9` acknowledges; the others read.
  case h_1 => exact .branch hidle.ends hidle.moves
  case h_8 => exact .brackets hidle fun _ => hidle.moves
  case h_9 => exact .moves (.receives (.computes hidle (.stamped _ _ (.inr hi))))
  case h_10 => exact .moves (.writes hi hm)
  all_goals exact hidle.moves

/-- The end of the RX loop. -/
theorem StepEffect.afterEmpty {i : Instr} {c : Ctx} {f g : Frame} {s t : State} (h : StepEffect i f s t) :
    StepEffect i f s (afterEmpty c g t) := .branch h.moves h.ends

section

variable {c : Ctx} {f : Frame} {s t : State} (hc : s.current = some (c, f))
include hc

theorem execNop_effect (h : execNop s = .next t) : StepEffect .nop f s t := by
  rw [execNop, withFrame_current hc] at h
  split at h <;> cases h
  exact .ends .idle

theorem execInit_effect {dev : BitVec 8} (h : execInit dev s = .next t) : StepEffect (.init dev) f s t := by
  rw [execInit, withFrame_current hc] at h
  obtain ⟨op, seq, loc, crit, n, bp⟩ := f
  dsimp only at h
  split at h
  case h_1 =>
    split at h <;> cases h
    · exact .ends .idle
    · exact .moves (.computes .idle (.bind dev (Nat.lt_of_not_le ‹_›)))
  all_goals cases h
  -- `S3` computes the timing, `S7` stores and `S13` enables; every other label is one device write.
  case h_4 => exact .moves .retimes
  case h_8 => exact .moves .stores
  case h_14 => exact .ends .enables
  all_goals exact .moves .writes

theorem execDisable_effect (h : execDisable s = .next t) : StepEffect .disable f s t := by
  rw [execDisable, withFrame_current hc] at h
  split at h <;> cases h
  · exact .moves .writes
  · exact .ends (.computes .writes .disabled)

theorem execEnable_effect (h : execEnable s = .next t) : StepEffect .enable f s t := by
  rw [execEnable, withFrame_current hc] at h
  split at h <;> cases h
  exact .ends .enables

theorem execSolve_effect (h : execSolve s = .next t) : StepEffect .solve f s t := by
  rw [execSolve, withFrame_current hc] at h
  split at h <;> cases h
  exact .ends (.computes .idle .solved)

theorem execSetspeed_effect (h : execSetspeed s = .next t) : StepEffect .setspeed f s t := by
  rw [execSetspeed, withFrame_current hc] at h
  split at h <;> cases h
  · exact .moves .idle
  · exact .moves .writes
  · exact .moves .writes
  · exact .moves .retimes
  · exact .moves .writes
  · exact .ends (.branch .enables .idle)

theorem execAclr_effect (h : execAclr s = .next t) : StepEffect .aclr f s t := by
  rw [execAclr, withFrame_current hc] at h
  obtain ⟨op, seq, loc, crit, n, bp⟩ := f
  dsimp only at h
  split at h <;> cases h
  · exact .moves .idle
  · exact .moves .writes
  · exact .moves .writes
  case h_4.refl k =>
    refine .moves ?_
    split
    · exact .computes (t := zeroFilterWord k s) (r := (clearEnabled s).regs) .stores .disabled
    · exact .stores
  · exact .branch (.moves (.computes .idle (.filtersCounted 0))) (.ends (.computes .idle (.filtersCounted 0)))
  · exact .ends .enables

theorem execAadd_effect {id mask : BitVec 11} (h : execAadd id mask s = .next t) : StepEffect (.aadd id mask) f s t := by
  rw [execAadd, withFrame_current hc] at h
  obtain ⟨op, seq, loc, crit, n, bp⟩ := f
  dsimp only at h
  split at h <;> cases h
  · exact .branch (.ends .idle) (.moves .idle)
  · exact .ends (.computes .stores (.filtersCounted _))

theorem execHtx_effect (h : execHtx s = .next t) : StepEffect .htx f s t := by
  rw [execHtx, withFrame_current hc] at h
  obtain ⟨op, seq, loc, crit, n, bp⟩ := f
  dsimp only at h
  split at h <;> cases h
  -- `L4` to `L7` store the slot.
  case h_6 | h_7 | h_8 | h_9 => exact .moves .stores
  · exact .moves .readsEcr
  · exact .branch (.moves .idle) (.ends .idle)
  · exact .moves .idle
  · exact .branch (.moves .idle) (.moves .idle)
  · exact .moves .takes
  · exact .moves .writes
  · exact .moves .idle
  · exact .ends .idle

theorem execHrx_effect (h : execHrx s = .next t) : StepEffect .hrx f s t := by
  rw [execHrx, withFrame_current hc] at h
  split at h
  case h_12 | h_13 | h_14 | h_15 | h_16 | h_17 | h_18 | h_19 | h_20 | h_21 => exact drainStep_effect (.inl rfl) h
  all_goals cases h
  -- `L0` may leave the loop, `L7` ends the bracket, `L8` hands over, `L9` and `E0` acknowledge; the others read.
  case h_1 => exact .branch (.branch (.moves .idle) (.afterEmpty .idle)) (.moves .idle)
  case h_8 => exact .brackets .idle fun _ => .moves .idle
  case h_9 => exact .moves (.receives (.computes (.computes .idle (.stamped _ _)) (.received _ _)))
  case h_10 => exact .moves .writes
  case h_11 => exact .afterEmpty .writes
  all_goals exact .moves .idle

theorem execTsrec_effect {ts : BitVec 16} (h : execTsrec ts s = .next t) : StepEffect (.tsrec ts) f s t := by
  rw [execTsrec, withFrame_current hc] at h
  split at h <;> cases h
  · exact .moves .idle
  · exact .moves .idle
  · exact .brackets .idle fun _ => .ends (.computes .idle (.stamped _ _))

theorem execRpsr_effect (h : execRpsr s = .next t) : StepEffect .rpsr f s t := by
  rw [execRpsr, withFrame_current hc] at h
  split at h <;> cases h
  exact .ends .readsPsr

theorem execUpderr_effect (h : execUpderr s = .next t) : StepEffect .upderr f s t := by
  rw [execUpderr, withFrame_current hc] at h
  split at h <;> cases h
  · exact .moves .readsEcr
  · exact .ends .readsPsr

theorem execHtxe_effect (h : execHtxe s = .next t) : StepEffect .htxe f s t := by
  rw [execHtxe, withFrame_current hc] at h
  split at h
  case h_1 =>
    split at h
    · exact drainStep_effect (.inr rfl) h
    · cases h
      exact .ends .idle
  case h_12 => cases h
  all_goals exact drainStep_effect (.inr rfl) h

end

/-- What a step of the current frame does outside its port, for every operation. -/
theorem exec_effect {i : Instr} {c : Ctx} {f : Frame} {s t : State} (hc : s.current = some (c, f))
    (h : exec i s = .next t) : StepEffect i f s t := by
  cases i with
  | nop => exact execNop_effect hc h
  | init dev => exact execInit_effect hc h
  | disable => exact execDisable_effect hc h
  | enable => exact execEnable_effect hc h
  | solve => exact execSolve_effect hc h
  | setspeed => exact execSetspeed_effect hc h
  | aclr => exact execAclr_effect hc h
  | aadd id mask => exact execAadd_effect hc h
  | htx => exact execHtx_effect hc h
  | hrx => exact execHrx_effect hc h
  | tsrec ts => exact execTsrec_effect hc h
  | rpsr => exact execRpsr_effect hc h
  | upderr => exact execUpderr_effect hc h
  | htxe => exact execHtxe_effect hc h

end Sys2Proof.Machine
end

section
/-! PROOF. What the operations leave unchanged, read off `exec_effect`. -/

namespace Sys2Proof.Machine

/-- Settles O17: the memory after a step is `storedMem`, and a store is read back and reaches no byte outside its word. -/
theorem stepsStoreOnlyTheirWord : Obligations.StepsStoreOnlyTheirWord := by
  intro s t c f hwf hc h
  have hmem : t.mem = storedMem s f := (exec_effect hc h).mem
  refine ⟨fun a v hstore => ?_, fun hnone x => ?_⟩
  · rw [storedMem, hstore] at hmem
    refine ⟨?_, fun x hx => ?_⟩
    · rw [memRead, hmem, Memory.loadWord_storeWord_same a v hwf]
    · rw [State.byteAt, hmem, Memory.load_storeWord_outside v hwf hx, State.byteAt]
  · rw [storedMem, hnone] at hmem
    rw [State.byteAt, hmem, State.byteAt]

/-- Settles O18: each register effect names its operations; the registers it does not set are kept. -/
theorem registersHaveFixedWriters : Obligations.RegistersHaveFixedWriters := by
  intro s t i h
  obtain ⟨c, f, hc, -⟩ := exec_shape h
  have hregs := (exec_effect hc h).regs
  generalize t.regs = r at hregs ⊢
  cases hregs with
  | keep => simp
  | bind dev hdev hi => subst hi; simp [initRegs]
  | disabled hi => rcases hi with rfl | rfl <;> simp
  | enabled hi => rcases hi with ⟨dev, rfl⟩ | rfl | rfl | rfl <;> simp
  | solved hi => subst hi; simp [storeTiming]
  | retimed hi => rcases hi with ⟨dev, rfl⟩ | rfl <;> simp [wbt1, storeTiming]
  | filtersCounted n hi => rcases hi with rfl | ⟨id, mask, rfl⟩ <;> simp
  | stamped g stored hi => rcases hi with ⟨ts, rfl⟩ | rfl | rfl <;> simp
  | received g stored hi => subst hi; simp
  | statusRead hi => rcases hi with rfl | rfl <;> simp [psr1_eq]
  | countersRead hi =>
    obtain ⟨k, recv, tec, errLog, he⟩ := ecr1_fields s
    rcases hi with rfl | rfl <;> simp [he]

theorem ctrlAt_congr {s t : State} (h : t.ctrls = s.ctrls) (d : BitVec 8) : t.ctrlAt d = s.ctrlAt d := by
  simp [State.ctrlAt, h]

/-- The bound controller, and every other one, after a step of operation `i`. -/
theorem exec_ctrlAt {i : Instr} {s t : State} (h : exec i s = .next t) :
    ∃ k, CtrlEffect i s k ∧ ∀ d, t.ctrlAt d = if d = s.regs.cstate.dev then k else s.ctrlAt d := by
  obtain ⟨c, f, hc, -⟩ := exec_shape h
  obtain ⟨k, hk, hctrls⟩ := (exec_effect hc h).ctrls
  exact ⟨k, hk, fun d => by rw [ctrlAt_congr hctrls, State.setCtrl, ctrlAt_setCtrlAt]⟩

/-- Settles O19: a step writes back one controller; a device write reaches the registers of its own kind, and R81 names the
operations that issue it. -/
theorem deviceRegistersHaveFixedWriters : Obligations.DeviceRegistersHaveFixedWriters := by
  intro s t i h
  obtain ⟨k, hk, hat⟩ := exec_ctrlAt h
  refine ⟨fun d hd => by rw [hat, if_neg hd], ?_⟩
  rintro _ _ rfl rfl
  rw [hat, if_pos rfl]
  cases hk with
  | keep => simp
  | readPsr hi => rcases hi with rfl | rfl <;> simp [Ctrl.psrTaken]
  | readEcr hi => rcases hi with rfl | rfl <;> cases hclear : s.cfg.ecrClearOnRead <;> simp [Ctrl.ecrTaken, hclear]
  | write w hi hk =>
    cases hk with
    | ignored => simp
    | mode r =>
      rcases hi with ⟨dev, rfl⟩ | rfl | rfl | rfl | ⟨rfl, hr⟩
      case inr.inr.inr.inr => simp [Ctrl.setMode, hr]
      all_goals simp [Ctrl.setMode]
    | btr r => rcases hi with ⟨dev, rfl⟩ | rfl <;> simp
    | gfc r | fltc r | rxc r | txc r | txec r | ie r | ils r =>
      obtain ⟨dev, rfl⟩ := hi
      simp [Ctrl.setRxc, Ctrl.setTxc, Ctrl.setTxec]
    | ir r =>
      obtain ⟨rfl, hr⟩ := hi
      simp [IrqSet.clear, hr]
    | rxa index get fill =>
      obtain rfl := hi
      simp
    | txea index get fill => rcases hi with rfl | rfl <;> simp
    | txrq bits put req sent =>
      obtain rfl := hi
      simp

theorem get_bump (e : ErrCounters) (cls : ErrClass) : (e.bump cls).get cls = e.get cls + 1 := by cases cls <;> rfl

theorem get_bump_other (e : ErrCounters) {cls cls' : ErrClass} (h : cls' ≠ cls) : (e.bump cls).get cls' = e.get cls' := by
  cases cls <;> cases cls' <;> first | rfl | exact absurd rfl h

/-- A last-error code counts in at most one counter (R337). -/
theorem countLec_cases (cfg : Cfg) (lec : BitVec 3) (e : ErrCounters) :
    countLec cfg lec e = e ∨ ∃ cls, countLec cfg lec e = e.bump cls := by
  unfold countLec
  split
  · exact .inr ⟨_, rfl⟩
  · exact .inl rfl

/-- The error counters after a step: INIT clears them where it binds its device, reading `PSR` counts in one at most. -/
theorem RegEffect.errs_cases {i : Instr} {l : Label} {s : State} {r : HostRegs} (h : RegEffect i l s r) :
    (∃ dev, i = .init dev ∧ l = .initS0) ∨ r.errs = s.regs.errs ∨ ∃ cls, r.errs = s.regs.errs.bump cls := by
  cases h with
  | bind dev hdev hi hl => exact .inl ⟨dev, hi, hl⟩
  | statusRead hi => exact .inr (countLec_cases s.cfg s.ctrl.psr.lec s.regs.errs)
  | enabled hi => exact .inr (.inl (by rw [en1_regs]))
  | keep | disabled | solved | retimed | filtersCounted | stamped | received | countersRead => exact .inr (.inl rfl)

/-- Of the other agents only the reset input touches the error counters (R55). -/
theorem agentMove_errs {m : Turn} (s : State) (hm : m ≠ .reset) : (agentMove m s).regs.errs = s.regs.errs := by
  cases m with
  | seq => rfl
  | hostWrite off bytes v =>
    rw [agentMove]
    rcases hostWrite_shape s off bytes v with ⟨c, h⟩ | ⟨_, _, _, _, h⟩ | h <;> rw [h]
    · obtain ⟨p, hp⟩ := submit_shape c v s
      rw [hp, setPort_regs]
    · rfl
  | ctrl d e =>
    obtain ⟨k, m, h⟩ := controllerStep_shape s d e
    rw [agentMove, h]
    rfl
  | source q => rfl
  | clock ticks => rfl
  | reset => exact absurd rfl hm

/-- Settles O48: an operation counts where it reads `PSR`, one class at most, and clears where INIT binds its device; no other
agent but the reset input touches the counters. -/
theorem errorCountersAreSticky : Obligations.ErrorCountersAreSticky := by
  intro s t h hreset hinit
  rcases step_next_cases h with ⟨hm, c, f, hc, hexec⟩ | ⟨-, -, rfl⟩ | ⟨-, rfl⟩
  · rcases (exec_effect (s := { s with sched := s.sched.tail }) hc hexec).regs.errs_cases with ⟨dev, hi, hl⟩ | he | ⟨cls, he⟩
    · exact absurd ⟨hm, c, f, dev, hc, hi, hl⟩ hinit
    · exact .inl he
    · exact .inr ⟨cls, by rw [he, get_bump], fun cls' hne => by rw [he, get_bump_other _ hne]⟩
  · exact .inl rfl
  · exact .inl (agentMove_errs _ hreset)

end Sys2Proof.Machine
end

section
/-! PROOF. A step of an operation is one primitive call (`00_scope.md` R17, `10_state.md` R41): a device or memory access, a
call of a collaborator, or an `Internal` step, and around it only the ports and the host registers change. -/

namespace Sys2Proof.Machine

/-- What a primitive call of operation `i` makes of the state. A call that only reads is `internal`. -/
inductive Call (i : Instr) (s : State) : State → Prop where
  | internal : Call i s s
  | devWrite (w : DevWrite) : Call i s (devWrite w s)
  | readPsr : Call i s (readPsr s).2
  | readEcr : Call i s (readEcr s).2
  | memWrite (a : Nat) (v : Word) : Call i s (memWrite s a v)
  | take (hi : i = .htx) : Call i s (takeOutgoing s).2
  | hand (m : RxMsg) (hi : i = .hrx ∨ i = .htxe) : Call i s (onReceived m s)

/-- `t` is what one primitive call of operation `i` leaves, but for the ports and the host registers. -/
def OneCall (i : Instr) (s t : State) : Prop :=
  ∃ u, Call i s u ∧ ∃ fg is r, t = { u with fgPort := fg, isPort := is, regs := r }

namespace OneCall

variable {i : Instr} {s t : State} {c : Ctx} {f : Frame}

theorem of_call (h : Call i s t) : OneCall i s t := ⟨t, h, t.fgPort, t.isPort, t.regs, rfl⟩

/-! The calls. -/

@[simp] theorem internal : OneCall i s s := of_call .internal

@[simp] theorem devWrite (w : DevWrite) : OneCall i s (devWrite w s) := of_call (.devWrite w)

@[simp] theorem memWrite (a : Nat) (v : Word) : OneCall i s (memWrite s a v) := of_call (.memWrite a v)

@[simp] theorem take : OneCall .htx s (takeOutgoing s).2 := of_call (.take rfl)

/-! Ports and registers are no part of the call. -/

@[simp] theorem setRegs {r : HostRegs} (h : OneCall i s t) : OneCall i s (t.setRegs r) := by
  obtain ⟨u, hu, fg, is, _, rfl⟩ := h
  exact ⟨u, hu, fg, is, r, rfl⟩

theorem setPort {p : Port} (h : OneCall i s t) : OneCall i s (t.setPort c p) := by
  obtain ⟨u, hu, fg, is, r, rfl⟩ := h
  cases c
  · exact ⟨u, hu, p, is, r, rfl⟩
  · exact ⟨u, hu, fg, p, r, rfl⟩

@[simp] theorem goto {l : Label} (h : OneCall i s t) : OneCall i s (goto c f l t) := h.setPort

@[simp] theorem raiseIn {e : ResultCode} (h : OneCall i s t) : OneCall i s (raiseIn c f e t) := h.setPort

@[simp] theorem complete (h : OneCall i s t) : OneCall i s (complete c f t) := h.setPort

@[simp] theorem ite {p : Prop} [Decidable p] {u : State} (ht : OneCall i s t) (hu : OneCall i s u) :
    OneCall i s (if p then t else u) := by
  split <;> assumption

/-! The sub-procedures. -/

@[simp] theorem dis1 : OneCall i s (dis1 s) := devWrite _

@[simp] theorem dis2 : OneCall i s (dis2 s) := devWrite _

@[simp] theorem disabled : OneCall i s (clearEnabled (Machine.dis2 s)) := (devWrite _).setRegs

@[simp] theorem en1 : OneCall i s (en1 s) := (devWrite _).setRegs

@[simp] theorem runSolve : OneCall i s (runSolve s) := internal.setRegs

@[simp] theorem retimed : OneCall i s (wbt1 (clearEnabled s)) := internal.setRegs.setRegs.setRegs

@[simp] theorem wbt2 : OneCall i s (wbt2 s) := devWrite _

@[simp] theorem zeroFilterWord (k : Nat) : OneCall i s (zeroFilterWord k s) := memWrite _ _

@[simp] theorem psr1 : OneCall i s (psr1 s) := (of_call .readPsr).setRegs

@[simp] theorem ecr1 : OneCall i s (ecr1 s) := (of_call .readEcr).setRegs

@[simp] theorem storeTimestamp {ts : BitVec 16} : OneCall i s (storeTimestamp f ts s) := internal.setRegs

@[simp] theorem afterEmpty (h : OneCall i s t) : OneCall i s (afterEmpty c f t) := h.goto.ite h.complete

@[simp] theorem rc3 {retry : Label} {on : Frame → State → State} (h : ∀ g, OneCall i s (on g s)) :
    OneCall i s (rc3 c f retry on s) := .ite (.goto .internal) (h _)

/-- Registers computed before the call come after it as well. -/
theorem memWrite_setRegs {r : HostRegs} {a : Nat} {v : Word} : OneCall i s (Machine.memWrite (s.setRegs r) a v) :=
  (memWrite a v).setRegs

theorem hand_setRegs {m : RxMsg} {r : HostRegs} (hi : i = .hrx ∨ i = .htxe) : OneCall i s (onReceived m (s.setRegs r)) :=
  (of_call (.hand m hi)).setRegs

end OneCall

/-- The drain of TX events, in the operations that inline it. -/
theorem drainStep_call {i : Instr} {c : Ctx} {f : Frame} {s t : State} (hi : i = .hrx ∨ i = .htxe)
    (h : drainStep c f s = .next t) : OneCall i s t := by
  unfold drainStep at h
  split at h <;> cases h
  -- `TE.L8` hands over.
  case h_9 => exact .goto (.hand_setRegs hi)
  all_goals simp

/-- Every step is one primitive call of its operation. -/
theorem exec_call {i : Instr} {s t : State} (h : exec i s = .next t) : OneCall i s t := by
  cases i <;> obtain ⟨c, f, -, h⟩ := withFrame_next h
  case hrx =>
    split at h
    case h_12 | h_13 | h_14 | h_15 | h_16 | h_17 | h_18 | h_19 | h_20 | h_21 => exact drainStep_call (.inl rfl) h
    all_goals cases h
    -- `L0` branches twice, `L8` hands over.
    case h_1 => exact .ite (by simp) (by simp)
    case h_9 => exact .goto (.hand_setRegs (.inl rfl))
    all_goals simp
  case htxe =>
    split at h
    case h_1 =>
      split at h
      · exact drainStep_call (.inr rfl) h
      · cases h; simp
    case h_12 => cases h
    all_goals exact drainStep_call (.inr rfl) h
  case init =>
    split at h
    case h_1 => split at h <;> cases h <;> simp
    all_goals cases h
    all_goals simp
  case aclr =>
    split at h <;> cases h
    -- `S3.0` may clear `enabled` before it stores.
    case h_4.refl k =>
      refine .goto ?_
      split
      · exact .memWrite_setRegs
      · exact .memWrite _ _
    case h_5 => exact .ite (by simp) (by simp)
    all_goals simp
  case htx =>
    split at h <;> cases h
    -- `L3` takes the message.
    case h_5 => exact .goto .take
    all_goals simp
  all_goals split at h <;> cases h <;> simp

/-! What a call leaves unchanged. -/

/-- Settles O20: of the calls, only `TakeOutgoing` touches the source and only `OnReceived` the consumer. -/
theorem collaboratorsSeeOneCallAStep : Obligations.CollaboratorsSeeOneCallAStep := by
  intro s t i h
  obtain ⟨u, hu, fg, is, r, rfl⟩ := exec_call h
  cases hu with
  | internal | readPsr | readEcr | memWrite a v => exact ⟨rfl, rfl, rfl, .inl rfl, .inl rfl⟩
  | devWrite w => simp
  | take hi =>
    refine ⟨by simp, by simp, by simp, ?_, by simp⟩
    rcases takeOutgoing_cases s with ⟨m, rest, hs, he⟩ | ⟨-, he⟩ <;> rw [he]
    · exact .inr ⟨hi, m, hs⟩
    · exact .inl rfl
  | hand m hi => exact ⟨rfl, rfl, rfl, .inl rfl, .inr ⟨hi, m, rfl⟩⟩

end Sys2Proof.Machine
end

section
/-! PROOF. Ring cursors stay in the ranges of their rings (`20_memory.md` R133, R134, R136, R138, `10_state.md` R68). The
three rings of a controller are independent: an operation that touches one of them owes the ranges of that one. -/

namespace Sys2Proof.Machine

/-- The cursor of a ring that has a slot goes round (R134, R138). -/
theorem nextCursor_lt {get count : Nat} (h : 0 < count) : (get + 1) % count < max 1 count :=
  (Nat.mod_lt _ h).trans_le (le_max_right 1 _)

/-- A free cursor is drawn within its ring (assumption log 9). -/
theorem freeCursor_lt (n count : Nat) : n % max 1 count < max 1 count := Nat.mod_lt _ (by omega)

/-! The TX ring. -/

/-- `settled` moves `tx_put` only. -/
theorem Ctrl.settled_eq (k : Ctrl) : k.settled = { k with txPut := k.settled.txPut } := by
  rcases k.settled_cases with ⟨-, h⟩ | ⟨-, -, h⟩ <;> rw [h]

theorem Ctrl.settled_txPut_lt {k : Ctrl} {n : Nat} (hn : k.txc.count ≤ n) (h : k.txPut < n) : k.settled.txPut < n := by
  rcases k.settled_cases with ⟨-, he⟩ | ⟨hlt, -, he⟩ <;> rw [he]
  · exact h
  · exact (Ctrl.freeSlot_free hlt).1.trans_le hn

/-- Any set of distinct slots of the ring may be requested: `settled` keeps `tx_put` free. -/
theorem Ctrl.InRange.settled {k : Ctrl} (h : k.InRange) {req : List Nat} {put : Nat} {sent : List (Nat × BitVec 16)}
    (hnodup : req.Nodup) (hreq : ∀ i ∈ req, i < k.txc.count) (hput : put < max 1 k.txc.count) :
    (Ctrl.settled { k with txReq := req, txPut := put, txSent := sent }).InRange := by
  have hfree := Ctrl.settled_free { k with txReq := req, txPut := put, txSent := sent }
  have hlt := Ctrl.settled_txPut_lt (k := { k with txReq := req, txPut := put, txSent := sent }) (le_max_right 1 _) hput
  rw [Ctrl.settled_eq]
  exact { h with txReqNodup := hnodup, txReqRange := hreq, txPut := hlt, txPutFree := hfree }

/-! The device port. -/

theorem writeConfig_inRange {s : State} {k : Ctrl} (h : s.ctrl.InRange) (hk : k.InRange) :
    (writeConfig s k).ctrl.InRange := by
  rcases writeConfig_ctrl s k with he | he <;> rw [he] <;> assumption

theorem ackRx_inRange {s : State} (h : s.ctrl.InRange) (index : Nat) : (ackRx s index).ctrl.InRange := by
  have hfill := h.rxFill
  simp only [ackRx]
  split
  · rw [ctrl_setCtrl]
    exact { h with rxGet := nextCursor_lt (by omega), rxFill := by dsimp only; omega }
  · rw [ctrl_drawn, ctrl_drawn, ctrl_setCtrl]
    exact { h with rxGet := freeCursor_lt _ _, rxFill := Nat.le_of_lt_succ (Nat.mod_lt _ (by omega)) }

theorem ackTxe_inRange {s : State} (h : s.ctrl.InRange) (index : Nat) : (ackTxe s index).ctrl.InRange := by
  have hfill := h.txeFill
  simp only [ackTxe]
  split
  · rw [ctrl_setCtrl]
    exact { h with txeGet := nextCursor_lt (by omega), txeFill := by dsimp only; omega }
  · rw [ctrl_drawn, ctrl_drawn, ctrl_setCtrl]
    exact { h with txeGet := freeCursor_lt _ _, txeFill := Nat.le_of_lt_succ (Nat.mod_lt _ (by omega)) }

theorem doorbellOk_iff {k : Ctrl} {bits : Word} :
    k.doorbellOk bits = true ↔
      bits = 1#32 <<< k.txPut ∧ k.txPut < k.txc.count ∧ k.txReq.length ≠ k.txc.count ∧ k.txPut ∉ k.txReq := by
  simp [Ctrl.doorbellOk, and_assoc]

theorem ringDoorbell_inRange {s : State} (h : s.ctrl.InRange) (bits : Word) : (ringDoorbell s bits).ctrl.InRange := by
  simp only [ringDoorbell]
  split
  · exact h
  · split
    · next hok =>
      obtain ⟨-, hlt, -, hfree⟩ := doorbellOk_iff.mp hok
      rw [ctrl_setCtrl]
      refine h.settled (List.concat_eq_append ▸ h.txReqNodup.concat hfree) (fun i hi => ?_) (nextCursor_lt (by omega))
      rcases List.mem_append.mp hi with hi | hi
      · exact h.txReqRange i hi
      · rwa [List.mem_singleton.mp hi]
    · rw [ctrl_drawn, ctrl_setCtrl]
      refine h.settled (List.nodup_dedup _) (fun i hi => ?_) (freeCursor_lt _ _)
      simpa using (List.mem_filter.mp (List.mem_dedup.mp hi)).2

theorem devWrite_inRange {s : State} (h : s.ctrl.InRange) (w : DevWrite) : (devWrite w s).ctrl.InRange := by
  have hpos (n : Nat) : 0 < max 1 n := by omega
  cases w with
  | mode r | ie r | ils r | ir r => rw [devWrite, ctrl_setCtrl]; exact { h with }
  | btr r | gfc r | fltc r => exact writeConfig_inRange h { h with }
  | rxc r => exact writeConfig_inRange h { h with rxGet := hpos _, rxFill := Nat.zero_le _ }
  | txc r =>
    exact writeConfig_inRange h
      { h with
        txReqNodup := .nil
        txReqRange := by simp [Ctrl.setTxc]
        txPut := hpos _
        txPutFree := by simp [Ctrl.setTxc] }
  | txec r => exact writeConfig_inRange h { h with txeGet := hpos _, txeFill := Nat.zero_le _ }
  | rxa index => exact ackRx_inRange h index
  | txea index => exact ackTxe_inRange h index
  | txrq bits => exact ringDoorbell_inRange h bits

/-! The controller's own steps. -/

theorem Ctrl.ecrTaken_inRange {k : Ctrl} (h : k.InRange) (cfg : Cfg) : (Ctrl.ecrTaken cfg k).InRange := by
  unfold Ctrl.ecrTaken
  split
  · exact { h with }
  · exact h

theorem Ctrl.react_inRange {k : Ctrl} (h : k.InRange) (cfg : Cfg) (mem : Memory) (e : CtrlEvent) :
    (k.react cfg mem e).InRange := by
  cases e with
  | arrive f =>
    rw [react]
    rcases Ctrl.receive_cases cfg mem k f with ⟨-, he⟩ | ⟨-, -, he⟩ | ⟨-, -, -, he⟩ <;> rw [he] <;> exact { h with }
  | txSend slot | lec code | stoppedCount v =>
    dsimp only [react, send]
    split <;> exact { h with }
  | dropRequest slot =>
    dsimp only [react]
    split
    · exact h.settled (h.txReqNodup.erase slot) (fun i hi => h.txReqRange i (List.mem_of_mem_erase hi)) h.txPut
    · exact h
  | ecrRead => exact Ctrl.ecrTaken_inRange h cfg
  | status | counters | celUp | celDraw | tick | psrRead | outsideMode | outsideIr => exact { h with }
  | rxWord | rxStore | txDone => exact h

/-- A frame is stored in a ring that has a slot for it (R133, R135). -/
theorem Ctrl.afterArrival_inRange {k : Ctrl} (h : k.InRange) {i : Nat} (ht : k.rxTarget = some i) (f : BusFrame)
    (held : List (BusFrame × BitVec 16)) : ({ k.afterArrival f with rxHeld := held } : Ctrl).InRange := by
  have hpos : 0 < k.rxc.count := by
    by_contra hz
    simp [rxTarget, Nat.eq_zero_of_not_pos hz] at ht
  unfold afterArrival
  split
  · next hlt => exact { h with rxFill := hlt }
  · exact { h with rxGet := nextCursor_lt hpos }

/-- The controller with its oldest request transmitted (R137, R139), before `settled`. -/
def Ctrl.unrequested (k : Ctrl) (slot : Nat) (rest : List Nat) : Ctrl :=
  { k.transferred with txReq := rest, txSent := k.sentBut slot, ir := { k.ir with txDone := true } }

/-- What a completed transmission makes of the controller but for its event (R137). -/
def Ctrl.completed (k : Ctrl) (slot : Nat) (rest : List Nat) : Ctrl := (k.unrequested slot rest).settled

/-- Replace the message RAM. -/
def State.setMem (s : State) (m : Memory) : State := { s with mem := m }

@[simp] theorem setMem_cfg (s : State) (m : Memory) : (s.setMem m).cfg = s.cfg := rfl

@[simp] theorem setMem_mem (s : State) (m : Memory) : (s.setMem m).mem = m := rfl

@[simp] theorem setMem_ctrlAt (s : State) (m : Memory) (d : BitVec 8) : (s.setMem m).ctrlAt d = s.ctrlAt d := rfl

section

variable {s : State} {d : BitVec 8} {slot : Nat} {rest : List Nat} (hi : (s.ctrlAt d).mode.init = false)
  (hr : (s.ctrlAt d).txReq = slot :: rest) (junk0 junk1 : Word)
include hi hr

theorem transmit_stored (he : storesEvent s.cfg s.mem (s.ctrlAt d) slot = true) :
    transmit s d junk0 junk1 =
      (s.setCtrlAt d { (s.ctrlAt d).completed slot rest with txeFill := (s.ctrlAt d).txeFill + 1 }).setMem
        (storeEvent s.cfg s.mem (s.ctrlAt d) slot
          (((s.ctrlAt d).txeGet + (s.ctrlAt d).txeFill) % (s.ctrlAt d).txec.count) junk0 junk1) := by
  simp only [transmit, hi, hr, he, Ctrl.completed, Ctrl.unrequested, if_true, State.setMem]

theorem transmit_silent (he : storesEvent s.cfg s.mem (s.ctrlAt d) slot = false) :
    transmit s d junk0 junk1 = s.setCtrlAt d ((s.ctrlAt d).completed slot rest) := by
  simp [transmit, hi, hr, he, Ctrl.completed, Ctrl.unrequested]

end

theorem Ctrl.completed_inRange {k : Ctrl} (h : k.InRange) {slot : Nat} {rest : List Nat} (hr : k.txReq = slot :: rest) :
    (k.completed slot rest).InRange := by
  have hnodup := h.txReqNodup
  have hrange := h.txReqRange
  rw [hr] at hnodup hrange
  have hk : ({ k.transferred with ir := { k.ir with txDone := true } } : Ctrl).InRange := { h with }
  exact hk.settled hnodup.of_cons (fun i hi => hrange i (List.mem_cons_of_mem _ hi)) h.txPut

/-- What a controller's own step can make of it (R130 to R142). -/
inductive Ctrl.Stepped (cfg : Cfg) (mem : Memory) (k : Ctrl) : Ctrl → Prop where
  | keeps : Stepped cfg mem k k
  | reacts (e : CtrlEvent) : Stepped cfg mem k (k.react cfg mem e)
  | stores {i : Nat} (ht : k.rxTarget = some i) (f : BusFrame) (rest : List (BusFrame × BitVec 16)) :
    Stepped cfg mem k { k.afterArrival f with rxHeld := rest }
  | discards (rest : List (BusFrame × BitVec 16)) : Stepped cfg mem k { k with rxHeld := rest }
  | completes {slot : Nat} {rest : List Nat} (hr : k.txReq = slot :: rest) : Stepped cfg mem k (k.completed slot rest)
  | completesWithEvent {slot : Nat} {rest : List Nat} (hr : k.txReq = slot :: rest) (hroom : k.txeFill < k.txec.count) :
    Stepped cfg mem k { k.completed slot rest with txeFill := k.txeFill + 1 }

theorem controllerStep_stepped (s : State) (d : BitVec 8) (e : CtrlEvent) :
    (s.ctrlAt d).Stepped s.cfg s.mem ((controllerStep s d e).ctrlAt d) := by
  have reached {k : Ctrl} (m : Memory) (h : (s.ctrlAt d).Stepped s.cfg s.mem k) :
      (s.ctrlAt d).Stepped s.cfg s.mem (((s.setCtrlAt d k).setMem m).ctrlAt d) :=
    (ctrlAt_setCtrlAt_same s d k).symm ▸ h
  unfold controllerStep
  split
  case isFalse => exact .keeps
  cases e with
  | rxWord w =>
    dsimp only [receiveWord]
    split <;> exact .keeps
  | rxStore =>
    dsimp only
    rcases deliver_cases s d with he | ⟨f, ts, rest, -, -, ⟨i, ht, he⟩ | ⟨-, he⟩⟩ <;> rw [he]
    · exact .keeps
    · exact reached _ (.stores ht f rest)
    · exact reached s.mem (.discards rest)
  | txDone junk0 junk1 =>
    dsimp only
    cases hi : (s.ctrlAt d).mode.init with
    | true => simpa [transmit, hi] using .keeps
    | false =>
      cases hr : (s.ctrlAt d).txReq with
      | nil => simpa [transmit, hr] using .keeps
      | cons slot rest =>
        cases he : storesEvent s.cfg s.mem (s.ctrlAt d) slot with
        | true =>
          rw [transmit_stored hi hr junk0 junk1 he]
          simp only [storesEvent, Bool.and_eq_true, decide_eq_true_eq] at he
          exact reached _ (.completesWithEvent hr he.2)
        | false =>
          rw [transmit_silent hi hr junk0 junk1 he]
          exact reached s.mem (.completes hr)
  | _ => exact reached s.mem (.reacts _)

theorem Ctrl.Stepped.inRange {cfg : Cfg} {mem : Memory} {k k' : Ctrl} (h : k.Stepped cfg mem k') (hk : k.InRange) :
    k'.InRange := by
  cases h with
  | keeps => exact hk
  | reacts e => exact Ctrl.react_inRange hk cfg mem e
  | stores ht f rest => exact Ctrl.afterArrival_inRange hk ht f rest
  | discards rest => exact { hk with }
  | completes hr => exact Ctrl.completed_inRange hk hr
  | completesWithEvent hr hroom =>
    have hc := Ctrl.completed_inRange hk hr
    rw [Ctrl.completed, Ctrl.settled_eq] at hc ⊢
    exact { hc with txeFill := hroom }

/-! A `tx_put` that names a free slot. -/

/-- The requests shrink, and a `tx_put` that names a free slot stays. -/
def Ctrl.KeepsPut (k k' : Ctrl) : Prop :=
  k.txPut ∉ k.txReq → k'.txPut = k.txPut ∧ ∀ i ∈ k'.txReq, i ∈ k.txReq

theorem Ctrl.keepsPut_settled {k k' : Ctrl} (hput : k'.txPut = k.txPut) (hreq : ∀ i ∈ k'.txReq, i ∈ k.txReq) :
    k.KeepsPut k'.settled := by
  intro hfree
  rw [Ctrl.settled_of_free (hput ▸ fun hm => hfree (hreq _ hm))]
  exact ⟨hput, hreq⟩

theorem Ctrl.react_keepsPut (k : Ctrl) (cfg : Cfg) (mem : Memory) (e : CtrlEvent) : k.KeepsPut (k.react cfg mem e) := by
  have same : k.KeepsPut k := fun _ => ⟨rfl, fun _ hi => hi⟩
  cases e with
  | arrive f =>
    rw [react]
    rcases Ctrl.receive_cases cfg mem k f with ⟨-, he⟩ | ⟨-, -, he⟩ | ⟨-, -, -, he⟩ <;> rw [he] <;> exact same
  | txSend slot | lec code | stoppedCount v =>
    dsimp only [react, send]
    split <;> exact same
  | ecrRead =>
    dsimp only [react, ecrTaken]
    split <;> exact same
  | dropRequest slot =>
    dsimp only [react]
    split
    · exact Ctrl.keepsPut_settled rfl fun i hi => List.mem_of_mem_erase hi
    · exact same
  | _ => exact same

theorem Ctrl.Stepped.keepsPut {cfg : Cfg} {mem : Memory} {k k' : Ctrl} (h : k.Stepped cfg mem k') : k.KeepsPut k' := by
  have completed {slot : Nat} {rest : List Nat} (hr : k.txReq = slot :: rest) : k.KeepsPut (k.completed slot rest) :=
    Ctrl.keepsPut_settled rfl fun i hi => by rw [hr]; exact List.mem_cons_of_mem slot hi
  cases h with
  | keeps | discards rest => exact fun _ => ⟨rfl, fun _ hi => hi⟩
  | reacts e => exact Ctrl.react_keepsPut k cfg mem e
  | stores ht f rest =>
    unfold Ctrl.afterArrival
    split <;> exact fun _ => ⟨rfl, fun _ hi => hi⟩
  | completes hr => exact completed hr
  | completesWithEvent hr hroom => exact completed hr

/-! All controllers. -/

theorem State.CursorsInRange.congr {s t : State} (h : s.CursorsInRange) (he : t.ctrls = s.ctrls) : t.CursorsInRange :=
  fun d => ctrlAt_congr he d ▸ h d

theorem State.CursorsInRange.setCtrlAt {s : State} (h : s.CursorsInRange) {d : BitVec 8} {k : Ctrl} (hk : k.InRange) :
    (s.setCtrlAt d k).CursorsInRange := by
  intro x
  rw [ctrlAt_setCtrlAt]
  split
  · exact hk
  · exact h x

theorem controllerStep_cursorsInRange {s : State} (h : s.CursorsInRange) (d : BitVec 8) (e : CtrlEvent) :
    (controllerStep s d e).CursorsInRange := by
  obtain ⟨k, m, he⟩ := controllerStep_shape s d e
  have hk : (controllerStep s d e).ctrlAt d = k := by rw [he]; exact ctrlAt_setCtrlAt_same s d k
  have hin : k.InRange := hk ▸ (controllerStep_stepped s d e).inRange (h d)
  exact (h.setCtrlAt hin).congr (by rw [he])

theorem agentMove_cursorsInRange {s : State} (h : s.CursorsInRange) (m : Turn) : (agentMove m s).CursorsInRange := by
  cases m with
  | seq | source | clock | reset => exact h
  | hostWrite off bytes v =>
    rw [agentMove]
    rcases hostWrite_shape s off bytes v with ⟨c, he⟩ | ⟨_, _, _, _, he⟩ | he <;> rw [he]
    · obtain ⟨p, hp⟩ := submit_shape c v s
      exact h.congr (by rw [hp, setPort_ctrls])
    · exact h
    · exact h
  | ctrl d e => exact controllerStep_cursorsInRange h d e

theorem exec_cursorsInRange {i : Instr} {s t : State} (h : s.CursorsInRange) (hexec : exec i s = .next t) :
    t.CursorsInRange := by
  obtain ⟨u, hu, fg, is, r, rfl⟩ := exec_call hexec
  cases hu with
  | internal | memWrite | hand => exact h
  | devWrite w => exact (h.setCtrlAt (devWrite_inRange (h _) w)).congr (devWrite_ctrls w s)
  | readPsr => exact h.setCtrlAt (k := s.ctrl.psrTaken) { h s.regs.cstate.dev with }
  | readEcr => exact h.setCtrlAt (Ctrl.ecrTaken_inRange (h _) s.cfg)
  | take => exact h.congr (takeOutgoing_ctrls s)

/-- Settles O46: a step is a call of the sequencer, which reaches one ring of the bound controller at most, or another
agent's move; of those, only a controller's own step touches rings, its own. -/
theorem ringCursorsStayInRange : Obligations.RingCursorsStayInRange := by
  refine ⟨fun s t h hstep => ?_, fun s d e hfree => (controllerStep_stepped s d e).keepsPut hfree⟩
  have hs : ({ s with sched := s.sched.tail } : State).CursorsInRange := h
  rcases step_next_cases hstep with ⟨-, c, f, -, hexec⟩ | ⟨-, -, rfl⟩ | ⟨-, rfl⟩
  · exact exec_cursorsInRange hs hexec
  · exact hs
  · exact agentMove_cursorsInRange hs s.mover

end Sys2Proof.Machine
end

section
/-! PROOF. What a running command owes its frame (`20_memory.md` R125, R126, `10_state.md` R43): its own steps keep its
operation and leave the other port alone, other agents leave it as it is, and its critical section is short. -/

namespace Sys2Proof.Machine

/-- A frame after a step of its own: its operation stays, at a label of that operation, and its critical-section flag goes
with the label (R41, R43, R274). -/
theorem exec_frame {i : Instr} {s t : State} {c : Ctx} {f g : Frame} (hc : s.current = some (c, f))
    (h : exec i s = .next t) (hg : t.frame c = some g) :
    g.op = f.op ∧ owns i g.seq = true ∧ (f.crit = f.seq.inCrit → g.crit = g.seq.inCrit) := by
  obtain ⟨c', f', hc', -, hend | hgoon⟩ := exec_shape h <;> obtain ⟨rfl, rfl⟩ := by simpa [hc] using hc'
  · obtain ⟨u, g', e, rfl, -⟩ := hend
    simp [frame_finish_same] at hg
  · obtain ⟨u, g', l, rfl, -, -, hop, howns, hcrit, -⟩ := hgoon
    rw [frame_goto_same] at hg
    cases hg
    exact ⟨hop, howns, hcrit⟩

/-! Other agents. -/

/-- A submission starts a frame on its own port, and only where there is none (R160). -/
theorem submit_frame {s : State} {c d : Ctx} {f : Frame} (w : Word) (h : s.frame c = some f) :
    (submit d w s).frame c = some f := by
  by_cases hd : c = d
  · subst hd
    rw [submit, if_pos (by simp [h]), State.frame, port_setPort_same]
    exact h
  · obtain ⟨p, hp⟩ := submit_shape d w s
    rw [hp, State.frame, port_setPort_other s p hd]
    exact h

/-- No agent but the reset input changes a frame that exists (R126). -/
theorem agentMove_frame {s : State} {m : Turn} {c : Ctx} {f : Frame} (hm : m ≠ .reset) (h : s.frame c = some f) :
    (agentMove m s).frame c = some f := by
  cases m with
  | seq => exact h
  | hostWrite off bytes v =>
    rw [agentMove]
    rcases hostWrite_shape s off bytes v with ⟨d, he⟩ | ⟨_, _, _, _, he⟩ | he <;> rw [he]
    · exact submit_frame v h
    · rwa [State.frame, port_setRegs]
    · exact h
  | ctrl d e =>
    obtain ⟨k, m, he⟩ := controllerStep_shape s d e
    rw [agentMove, he]
    cases c <;> exact h
  | source q | clock ticks => cases c <;> exact h
  | reset => exact absurd rfl hm

/-- Settles O16: a step is seen from its own port only, and there keeps the operation; other agents leave frames alone. -/
theorem runningCommandCannotBeChanged : Obligations.RunningCommandCannotBeChanged :=
  ⟨fun _ _ _ _ hc h => ⟨fun _ hd => exec_port_other hc h hd, fun _ hg => (exec_frame hc h hg).1⟩,
    fun _ _ _ _ hm h => agentMove_frame hm h⟩

/-! The critical section. -/

/-- The most steps a frame at a label has left in its critical section (`43_tx_engine.md` R272, R274). -/
def Label.sectionLeft : Label → Nat
  | .htxL2 => 8
  | .htxL3 => 7
  | .htxL4 => 6
  | .htxL5 => 5
  | .htxL6 => 4
  | .htxL7 => 3
  | .htxL8 => 2
  | .htxL9 | .htxX1 => 1
  | _ => 0

theorem Label.sectionLeft_le (l : Label) : l.sectionLeft ≤ 8 := by
  cases l <;> simp [sectionLeft]

theorem Label.sectionLeft_pos {l : Label} (h : l.inCrit = true) : 0 < l.sectionLeft := by
  cases l <;> simp [inCrit, sectionLeft] at h ⊢

/-- Only HTX has a critical section. -/
theorem owns_inCrit {i : Instr} {l : Label} (h : l.inCrit = true) : owns i l = true ↔ i = .htx := by
  cases l <;> cases h <;> cases i <;> simp [owns, Label.isDrain]

/-- Every step in the critical section is nearer to its end. -/
theorem execHtx_sectionLeft {s t : State} {c : Ctx} {f g : Frame} (hc : s.current = some (c, f))
    (hin : f.seq.inCrit = true) (h : exec .htx s = .next t) (hg : t.frame c = some g) :
    g.seq.sectionLeft < f.seq.sectionLeft := by
  have goto_seq {u : State} {f' : Frame} {l : Label} (hg : (goto c f' l u).frame c = some g) : g.seq = l := by
    rw [frame_goto_same] at hg
    cases hg
    rfl
  change execHtx s = .next t at h
  rw [execHtx, withFrame_current hc] at h
  dsimp only at h
  split at h <;> cases h
  -- `S0` to `L1` are outside, `L2` branches, `X1` completes.
  case h_1 hl | h_2 hl | h_3 hl => simp [hl, Label.inCrit] at hin
  case h_4 hl => split at hg <;> simp [goto_seq hg, hl, Label.sectionLeft]
  case h_12 hl => simp [complete, frame_finish_same] at hg
  all_goals simp [goto_seq hg, *, Label.sectionLeft]

/-- The FG frame `f` is in its critical section and no other agent moves. -/
structure State.InSection (s : State) (f : Frame) : Prop where
  validCfg : s.cfg.valid = true
  quiet : s.sched = []
  frame : s.frame .fg = some f
  op : f.op = .htx
  crit : f.crit = true
  label : f.seq.inCrit = true

/-- A step in the critical section is the FG frame's; the IS port waits, and the section ends or is nearer to its end. -/
theorem State.InSection.step {s : State} {f : Frame} (h : s.InSection f) :
    ∃ t, Machine.step s = .next t ∧ t.isPort = s.isPort ∧
      ∀ g, t.frame .fg = some g → g.crit = true → t.InSection g ∧ g.seq.sectionLeft < f.seq.sectionLeft := by
  have hc := current_fg_of_crit h.frame (.inl h.crit)
  obtain ⟨t, ht⟩ := exec_answers hc ((owns_inCrit h.label).mpr rfl)
  obtain ⟨-, hsched, hcfg, -, -⟩ := collaboratorsSeeOneCallAStep s t .htx ht
  refine ⟨t, ?_, exec_port_other (d := .is) hc ht nofun, fun g hg hcrit => ?_⟩
  · rw [step_quiet h.validCfg h.quiet, sequencerStep_current hc, h.op, ht]
  · obtain ⟨hop, -, hflag⟩ := exec_frame hc ht hg
    have hlabel : g.seq.inCrit = true := (hflag (h.crit.trans h.label.symm)).symm.trans hcrit
    exact ⟨⟨hcfg ▸ h.validCfg, hsched.trans h.quiet, hg, hop.trans h.op, hcrit, hlabel⟩,
      execHtx_sectionLeft hc h.label ht hg⟩

theorem runSteps_succ {s t : State} (h : step s = .next t) (n : Nat) : runSteps (n + 1) s = runSteps n t := by
  simp only [runSteps, Host.Core.run, show Sys2Proof.core.step s = .next t from h] <;> rfl

/-- The critical section ends within the steps it has left (R373). -/
theorem State.InSection.ends {s : State} {f : Frame} (h : s.InSection f) {n : Nat} (hn : f.seq.sectionLeft ≤ n) :
    ∃ k t, 1 ≤ k ∧ k ≤ n ∧ runSteps k s = .next t ∧ t.isPort = s.isPort ∧
      ∀ g, t.frame .fg = some g → g.crit = false := by
  induction n generalizing s f with
  | zero => exact absurd (Label.sectionLeft_pos h.label) (by omega)
  | succ n ih =>
    obtain ⟨t, hstep, his, hgoon⟩ := h.step
    by_cases hout : ∀ g, t.frame .fg = some g → g.crit = false
    · exact ⟨1, t, le_rfl, by omega, runSteps_succ hstep 0, his, hout⟩
    · push Not at hout
      obtain ⟨g, hg, hcrit⟩ := hout
      obtain ⟨hin, hlt⟩ := hgoon g hg (by simpa using hcrit)
      obtain ⟨k, u, -, hk, hrun, hport, hend⟩ := ih hin (by omega)
      exact ⟨k + 1, u, by omega, by omega, (runSteps_succ hstep k).trans hrun, hport.trans his, hend⟩

/-- Settles O14: by the invariant a frame with its flag set is an HTX in its section, which has at most eight steps left. -/
theorem criticalSectionIsShort : Obligations.CriticalSectionIsShort := by
  intro s f hinv hquiet hf hcrit
  have hlabel : f.seq.inCrit = true := (hinv.crits .fg f hf).symm.trans hcrit
  have hop : f.op = .htx := (owns_inCrit hlabel).mp (hinv.labels .fg f hf)
  exact State.InSection.ends ⟨hinv.validCfg, hquiet, hf, hop, hcrit, hlabel⟩ f.seq.sectionLeft_le

end Sys2Proof.Machine
end

section
/-! PROOF. Message-RAM records survive packing (`20_memory.md` R114 to R117, `93_implementation_defined.md` U20). Under a bit
layout every field reads back from its own bits, since the fields of a word do not overlap and the free bits of the
controller's words lie outside all of them; for any other packing reading back is part of `Cfg.valid`. -/

namespace Sys2Proof.Machine

/-! Free bits of a word. -/

@[simp] theorem getField_zero (lo n : Nat) : getField 0#32 lo n = 0#n := by
  simp [getField]

@[simp] theorem getField_withJunk (fields mask junk : Word) (lo n : Nat) :
    getField (withJunk fields mask junk) lo n = getField fields lo n ||| getField junk lo n &&& ~~~getField mask lo n := by
  ext i hi
  simp only [withJunk, getField, BitVec.getElem_extractLsb', BitVec.getLsbD_or, BitVec.getLsbD_and, BitVec.getLsbD_not,
    BitVec.getElem_or, BitVec.getElem_and, BitVec.getElem_not]
  by_cases h : lo + i < 32
  · simp [h]
  · simp [BitVec.getLsbD_of_ge junk (lo + i) (by omega)]

@[simp] theorem getBit_withJunk (fields mask junk : Word) (lo : Nat) :
    getBit (withJunk fields mask junk) lo = (getBit fields lo || getBit junk lo && !getBit mask lo) := by
  simp only [withJunk, getBit, BitVec.getLsbD_or, BitVec.getLsbD_and, BitVec.getLsbD_not]
  by_cases h : lo < 32
  · simp [h]
  · simp [BitVec.getLsbD_of_ge junk lo (by omega)]

/-! What a valid configuration says of its packing. -/

/-- The message-RAM half of what U20 asks of a packing, for either form of it. -/
def packsMessages : Pack → Prop
  | .layout l => l.valid = true
  | .other n => (Config.packFns n).messageLawful = true

theorem packsMessages_of_valid {cfg : Cfg} (h : cfg.valid = true) : packsMessages cfg.pack := by
  simp only [Cfg.valid, Bool.and_eq_true] at h
  obtain ⟨-, -, -, hpack, -⟩ := h
  unfold packsMessages
  cases hc : cfg.pack <;> simp only [Cfg.packValid, hc, Bool.and_eq_true] at hpack
  · exact hpack.2
  · exact hpack.1

theorem layout_valid_iff {l : BitLayout} :
    l.valid = true ↔ l.toRxCode ≠ 0 ∧
      fieldsFit [(l.fltMode, 2), (l.fltAction, 3), (l.fltId, 11), (l.fltMask, 11)] = true ∧
      fieldsFit [(l.rxXtd, 1), (l.rxRtr, 1), (l.rxId, 11)] = true ∧ fieldsFit [(l.rxDlc, 4), (l.rxTs, 16)] = true ∧
      fieldsFit [(l.txRtr, 1), (l.txId, 11)] = true ∧ fieldsFit [(l.txTag, 8), (l.txEvt, 1), (l.txDlc, 4)] = true ∧
      fieldsFit [(l.evRtr, 1), (l.evId, 11)] = true ∧ fieldsFit [(l.evTag, 8), (l.evDlc, 4), (l.evTs, 16)] = true := by
  simp [BitLayout.valid]

theorem fieldsFit_cons {lo n : Nat} {rest : List (Nat × Nat)} :
    fieldsFit ((lo, n) :: rest) = true ↔
      lo + n ≤ 32 ∧ (∀ f ∈ rest, lo + n ≤ f.1 ∨ f.1 + f.2 ≤ lo) ∧ fieldsFit rest = true := by
  simp [fieldsFit]

/-- What a lawful packing reads back, record by record. -/
theorem messageLawful_reads {p : PackFns} (h : p.messageLawful = true) :
    (p.decFlt 0).action = .disabled ∧
      (∀ id mask, p.decFlt (p.encFlt (aaddRec id mask)) = aaddRec id mask) ∧
      (∀ r junk, p.decRx0 (p.encRx0 r junk) = r) ∧ (∀ r junk, p.decRx1 (p.encRx1 r junk) = r) ∧
      (∀ r, p.decTxId (p.encTxId r) = r) ∧ (∀ r, p.decTxCtl (p.encTxCtl r) = r) ∧
      (∀ r junk, p.decTxe0 (p.encTxe0 r junk) = r) ∧ (∀ r junk, p.decTxe1 (p.encTxe1 r junk) = r) := by
  obtain ⟨hzero, hflt, hrx0, hrx1, htxId, htxCtl, htxe0, htxe1⟩ := of_decide_eq_true h
  exact ⟨hzero, hflt, fun r => hrx0 r.id r.rtr r.xtd, fun r => hrx1 r.dlc r.ts, fun r => htxId r.id r.rtr,
    fun r => htxCtl r.dlc r.evt r.tag, fun r => htxe0 r.id r.rtr, fun r => htxe1 r.dlc r.ts r.tag⟩

/-! Each record. -/

section

variable {p : Pack} (h : packsMessages p)
include h

theorem unpackFlt_zero : (unpackFlt p 0).action = .disabled := by
  cases p with
  | other n =>
    obtain ⟨hzero, -⟩ := messageLawful_reads h
    exact hzero
  | layout l => simp [unpackFlt, actionOf]

theorem unpackFlt_packFlt (id mask : BitVec 11) : unpackFlt p (packFlt p (aaddRec id mask)) = aaddRec id mask := by
  cases p with
  | other n =>
    obtain ⟨-, hread, -⟩ := messageLawful_reads h
    exact hread id mask
  | layout l =>
    obtain ⟨hcode, hfit, -⟩ := layout_valid_iff.mp h
    simp only [fieldsFit_cons, List.forall_mem_cons] at hfit
    simp (disch := omega) only [unpackFlt, packFlt, aaddRec, getField_or, getField_putField_same, getField_putField_apart]
    simpa [modeOf, modeCode, actionOf, actionCode] using hcode

theorem unpackRx0_packRx0 (r : RxIdRec) (junk : Word) : unpackRx0 p (packRx0 p r junk) = r := by
  cases p with
  | other n =>
    obtain ⟨-, -, hread, -⟩ := messageLawful_reads h
    exact hread r junk
  | layout l =>
    obtain ⟨-, -, hfit, -⟩ := layout_valid_iff.mp h
    simp only [fieldsFit_cons, List.forall_mem_cons] at hfit
    simp (disch := omega) [unpackRx0, packRx0, rxMask0]

theorem unpackRx1_packRx1 (r : RxCtlRec) (junk : Word) : unpackRx1 p (packRx1 p r junk) = r := by
  cases p with
  | other n =>
    obtain ⟨-, -, -, hread, -⟩ := messageLawful_reads h
    exact hread r junk
  | layout l =>
    obtain ⟨-, -, -, hfit, -⟩ := layout_valid_iff.mp h
    simp only [fieldsFit_cons, List.forall_mem_cons] at hfit
    simp (disch := omega) [unpackRx1, packRx1, rxMask1]

theorem unpackTxId_packTxId (r : TxIdRec) : unpackTxId p (packTxId p r) = r := by
  cases p with
  | other n =>
    obtain ⟨-, -, -, -, hread, -⟩ := messageLawful_reads h
    exact hread r
  | layout l =>
    obtain ⟨-, -, -, -, hfit, -⟩ := layout_valid_iff.mp h
    simp only [fieldsFit_cons, List.forall_mem_cons] at hfit
    simp (disch := omega) [unpackTxId, packTxId]

theorem unpackTxCtl_packTxCtl (r : TxCtlRec) : unpackTxCtl p (packTxCtl p r) = r := by
  cases p with
  | other n =>
    obtain ⟨-, -, -, -, -, hread, -⟩ := messageLawful_reads h
    exact hread r
  | layout l =>
    obtain ⟨-, -, -, -, -, hfit, -⟩ := layout_valid_iff.mp h
    simp only [fieldsFit_cons, List.forall_mem_cons] at hfit
    simp (disch := omega) [unpackTxCtl, packTxCtl]

theorem unpackTxe0_packTxe0 (r : TxIdRec) (junk : Word) : unpackTxe0 p (packTxe0 p r junk) = r := by
  cases p with
  | other n =>
    obtain ⟨-, -, -, -, -, -, hread, -⟩ := messageLawful_reads h
    exact hread r junk
  | layout l =>
    obtain ⟨-, -, -, -, -, -, hfit, -⟩ := layout_valid_iff.mp h
    simp only [fieldsFit_cons, List.forall_mem_cons] at hfit
    simp (disch := omega) [unpackTxe0, packTxe0, txeMask0]

theorem unpackTxe1_packTxe1 (r : TxeCtlRec) (junk : Word) : unpackTxe1 p (packTxe1 p r junk) = r := by
  cases p with
  | other n =>
    obtain ⟨-, -, -, -, -, -, -, hread⟩ := messageLawful_reads h
    exact hread r junk
  | layout l =>
    obtain ⟨-, -, -, -, -, -, -, hfit⟩ := layout_valid_iff.mp h
    simp only [fieldsFit_cons, List.forall_mem_cons] at hfit
    simp (disch := omega) [unpackTxe1, packTxe1, txeMask1]

end

/-- Settles O7: record by record; a slot's header and an event are two records. -/
theorem packingRoundTrips : Obligations.PackingRoundTrips := by
  rintro cfg p hv rfl
  have h := packsMessages_of_valid hv
  refine ⟨unpackFlt_packFlt h, unpackFlt_zero h, fun id rtr xtd dlc ts junk0 junk1 => ?_, unpackTxId_packTxId h,
    unpackTxCtl_packTxCtl h, fun id rtr dlc ts tag junk0 junk1 => ?_⟩
  · simp only [unpackRx, unpackRx0_packRx0 h, unpackRx1_packRx1 h]
  · simp only [unpackTxe, unpackTxe0_packTxe0 h, unpackTxe1_packTxe1 h]

end Sys2Proof.Machine
end

section
/-! PROOF. The layout of the message RAM (`20_memory.md` R103, R110 to R112): a zone starts where the one before it has
ended, at a multiple of `ALIGN` and so of 4, and every word of an element lies inside its zone. -/

namespace Sys2Proof

theorem Cfg.le_up {cfg : Cfg} (h : 0 < cfg.align) (x : Nat) : x ≤ cfg.up x := by
  have hdiv := Nat.div_add_mod (x + cfg.align - 1) cfg.align
  have hmod := Nat.mod_lt (x + cfg.align - 1) h
  rw [Cfg.up, Nat.mul_comm]
  omega

/-- An `ALIGN` of 4 or more that is a power of two is a multiple of 4 (`00_scope.md` R12). -/
theorem Cfg.four_dvd_align {cfg : Cfg} (hle : 4 ≤ cfg.align) (hpow : 2 ^ Nat.log2 cfg.align = cfg.align) :
    4 ∣ cfg.align := by
  have h : 2 ^ 2 ∣ 2 ^ Nat.log2 cfg.align := pow_dvd_pow 2 ((Nat.le_log2 (by omega)).mpr hle)
  rwa [hpow] at h

/-- What the alignment constraints of R12 say of the layout: `up` rounds up, to multiples of 4, and every element is a
multiple of 4 bytes long. -/
theorem Cfg.alignment {cfg : Cfg} (h : cfg.alignmentValid = true) :
    (∀ x, x ≤ cfg.up x ∧ 4 ∣ cfg.up x) ∧ 4 ∣ cfg.fltSz ∧ 4 ∣ cfg.rxSz ∧ 4 ∣ cfg.txSz ∧ 4 ∣ cfg.txeSz := by
  simp only [Cfg.alignmentValid, Bool.and_eq_true, decide_eq_true_eq, List.all_cons, List.all_nil, beq_iff_eq,
    and_true] at h
  obtain ⟨⟨hle, hpow, -⟩, hflt, hrx, htx, htxe⟩ := h
  exact ⟨fun x => ⟨Cfg.le_up (by omega) x, (Cfg.four_dvd_align hle hpow).mul_left _⟩, Nat.dvd_of_mod_eq_zero hflt,
    Nat.dvd_of_mod_eq_zero hrx, Nat.dvd_of_mod_eq_zero htx, Nat.dvd_of_mod_eq_zero htxe⟩

/-- A word of one of the `n` elements, `size` bytes each, of a zone from `off` on that ends at `limit` at the latest. -/
theorem elementWord_inZone {off n size limit i w : Nat} (hoff : 4 ∣ off) (hsize : 4 ∣ size)
    (hlimit : off + n * size ≤ limit) (hi : i < n) (hw : 4 * w + 4 ≤ size) :
    (off + i * size + 4 * w) % 4 = 0 ∧ off ≤ off + i * size + 4 * w ∧ off + i * size + 4 * w + 4 ≤ limit := by
  have hlast : (i + 1) * size ≤ n * size := Nat.mul_le_mul_right size hi
  have hmul : 4 ∣ i * size := hsize.mul_left i
  rw [Nat.succ_mul] at hlast
  omega

namespace Machine

/-- Settles O57: `up` keeps the zones apart and aligned, and the words of an element stay inside its zone. -/
theorem zonesAreDisjointAndAligned : Obligations.ZonesAreDisjointAndAligned := by
  intro cfg hv hfit
  simp only [Cfg.valid, Bool.and_eq_true] at hv
  obtain ⟨-, halign, -, -, hlayout⟩ := hv
  obtain ⟨hup, hflt, hrx, htx, htxe⟩ := Cfg.alignment halign
  simp only [Cfg.layoutValid, Bool.and_eq_true, decide_eq_true_eq] at hlayout
  obtain ⟨⟨hpool, hend⟩, -⟩ := hlayout
  simp only [Cfg.elementsFit, decide_eq_true_eq] at hfit
  obtain ⟨hfltFit, hrxFit, htxFit, htxeFit⟩ := hfit
  obtain ⟨hleFlt, hdvdFlt⟩ := hup cfg.poolOffset
  obtain ⟨hleRx, hdvdRx⟩ := hup (cfg.offFlt + cfg.maxf * cfg.fltSz)
  obtain ⟨hleTx, hdvdTx⟩ := hup (cfg.offRx + cfg.rxd * cfg.rxSz)
  obtain ⟨hleTxe, hdvdTxe⟩ := hup (cfg.offTx + cfg.txd * cfg.txSz)
  exact ⟨⟨hleFlt, hleRx, hleTx, hleTxe, hpool, hend⟩,
    fun k hk => elementWord_inZone (w := 0) hdvdFlt hflt hleRx hk (by omega),
    fun i hi w hw => elementWord_inZone hdvdRx hrx hleTx hi (by omega),
    fun i hi w hw => elementWord_inZone hdvdTx htx hleTxe hi (by omega),
    fun i hi w hw => elementWord_inZone hdvdTxe htxe hpool hi (by omega)⟩

end Machine

end Sys2Proof
end

section
/-! PROOF. The controller's contract (`20_memory.md` R131 to R142) on a controller programmed as INIT programs it. Its rings
then lie where the layout puts them; an element is stored as consecutive words, which read back and reach no byte outside
it. -/

namespace Sys2Proof

/-! Consecutive words. -/

/-- Words stored one after the other from byte offset `a` on. -/
def Memory.storeWords (m : Memory) (a : Nat) : List Word → Memory
  | [] => m
  | w :: ws => (m.storeWord a w).storeWords (a + 4) ws

namespace Memory

theorem load_storeWords_outside {m : Memory} {a x : Nat} {ws : List Word} (hm : wf m = true)
    (h : x < a ∨ a + 4 * ws.length ≤ x) : (m.storeWords a ws).load x = m.load x := by
  induction ws generalizing m a with
  | nil => rfl
  | cons w ws ih =>
    rw [List.length_cons] at h
    rw [storeWords, ih (storeWord_wf a w hm) (by omega), load_storeWord_outside w hm (by unfold Machine.outsideWord; omega)]

theorem loadWord_storeWords_before {m : Memory} {a b : Nat} {ws : List Word} (hm : wf m = true) (h : b + 4 ≤ a) :
    (m.storeWords a ws).loadWord b = m.loadWord b := by
  simp only [loadWord]
  repeat rw [load_storeWords_outside hm (by omega)]

theorem loadWord_storeWords {m : Memory} {a j : Nat} {ws : List Word} (hm : wf m = true) (hj : j < ws.length) :
    (m.storeWords a ws).loadWord (a + 4 * j) = ws[j] := by
  induction ws generalizing m a j with
  | nil => cases hj
  | cons w ws ih =>
    have hm' := storeWord_wf a w hm
    cases j with
    | zero => exact (loadWord_storeWords_before hm' le_rfl).trans (loadWord_storeWord_same a w hm)
    | succ j =>
      have hread := ih (a := a + 4) hm' (Nat.lt_of_succ_lt_succ hj)
      rwa [show a + 4 + 4 * j = a + 4 * (j + 1) by omega] at hread

end Memory

namespace Machine

/-! Payload bytes. -/

theorem byteOf_wordOf (d0 d1 d2 d3 : Byte) :
    byteOf (wordOf d0 d1 d2 d3) 0 = d0 ∧ byteOf (wordOf d0 d1 d2 d3) 1 = d1 ∧ byteOf (wordOf d0 d1 d2 d3) 2 = d2 ∧
      byteOf (wordOf d0 d1 d2 d3) 3 = d3 := by
  simp only [byteOf, wordOf, BitVec.extractLsb'_append_eq_ite]
  simp

theorem payloadOf_payload (d : Payload) : payloadOf (payloadLow d) (payloadHigh d) = d := by
  obtain ⟨h0, h1, h2, h3⟩ := byteOf_wordOf d[0] d[1] d[2] d[3]
  obtain ⟨h4, h5, h6, h7⟩ := byteOf_wordOf d[4] d[5] d[6] d[7]
  simp only [payloadOf, payloadLow, payloadHigh, h0, h1, h2, h3, h4, h5, h6, h7]
  ext i hi
  interval_cases i <;> rfl

/-! Where the rings of a programmed controller lie. -/

/-- The base of a zone fits its register field (R112). -/
theorem base_toNat {cfg : Cfg} (hv : cfg.valid = true) {off : Nat}
    (h : off ∈ [cfg.offFlt, cfg.offRx, cfg.offTx, cfg.offTxe]) : (BitVec.ofNat 16 off).toNat = off := by
  simp only [Cfg.valid, Cfg.layoutValid, Bool.and_eq_true, List.all_eq_true, decide_eq_true_eq] at hv
  obtain ⟨-, -, -, -, -, hbases⟩ := hv
  rw [BitVec.toNat_ofNat, Nat.mod_eq_of_lt (Nat.lt_succ_of_le (hbases off h).2)]

section

variable {cfg : Cfg} {k : Ctrl} (hv : cfg.valid = true) (hp : k.Programmed cfg)
include hv hp

theorem Ctrl.Programmed.rxSlotAddr (i w : Nat) : k.rxSlotAddr cfg i w = cfg.rxWord i w := by
  rw [Ctrl.rxSlotAddr, hp.rxc, base_toNat hv (by simp), Cfg.rxWord]

theorem Ctrl.Programmed.txSlotAddr (i w : Nat) : k.txSlotAddr cfg i w = cfg.txWord i w := by
  rw [Ctrl.txSlotAddr, hp.txc, base_toNat hv (by simp), Cfg.txWord]

theorem Ctrl.Programmed.txeAddr (i w : Nat) : k.txeAddr cfg i w = cfg.txeWord i w := by
  rw [Ctrl.txeAddr, hp.txec, base_toNat hv (by simp), Cfg.txeWord]

/-- The slot an accepted frame goes to (R133, R135). -/
theorem Ctrl.Programmed.rxTarget :
    k.rxTarget = if k.rxFill < cfg.rxd then some ((k.rxGet + k.rxFill) % cfg.rxd)
      else if cfg.rxOverwrite then some k.rxGet else none := by
  simp only [Cfg.valid, Cfg.rangesValid, Bool.and_eq_true, decide_eq_true_eq] at hv
  simp only [Ctrl.rxTarget, hp.rxc]
  rw [if_neg (by omega)]

end

/-! Reception (R131, R142). -/

theorem controllerStep_arrive {s : State} {d : BitVec 8} (hd : d.toNat < s.cfg.numDev) (b : BusFrame) :
    controllerStep s d (.arrive b) = s.setCtrlAt d ((s.ctrlAt d).receive s.cfg s.mem b) := if_pos hd

/-- With both reject flags set, the standard data frames that meet a filter are accepted, and no others (R142). -/
theorem accepts_of_rejects {cfg : Cfg} {mem : Memory} {k : Ctrl} {b : BusFrame}
    (h : k.gfc = { rejNomatch := true, rejRemote := true }) :
    accepts cfg mem k b = true ↔ b.rtr = false ∧ b.xtd = false ∧ anyFilterMatches cfg mem k b.id = true := by
  unfold accepts
  cases b.rtr <;> cases b.xtd <;> cases anyFilterMatches cfg mem k b.id <;> simp [h]

theorem Ctrl.receive_dropped {cfg : Cfg} {mem : Memory} {k : Ctrl} {b : BusFrame} (hi : k.mode.init = false)
    (h : ¬ accepts cfg mem k b = true ∨ k.rxTarget = none) : k.receive cfg mem b = k.transferred := by
  unfold receive
  rcases h with h | h <;> simp [hi, h]

theorem Ctrl.receive_held {cfg : Cfg} {mem : Memory} {k : Ctrl} {b : BusFrame} (hi : k.mode.init = false)
    (h : accepts cfg mem k b = true) (ht : k.rxTarget ≠ none) :
    k.receive cfg mem b = { k.transferred with rxHeld := k.rxHeld ++ [(b, k.tscnt)] } := by
  simp [receive, hi, h, Option.isSome_iff_ne_none.mpr ht]

/-- Settles O54: only standard data frames that meet a filter are accepted, and they are held where the ring has a slot for
them. -/
theorem receptionFollowsTheContract : Obligations.ReceptionFollowsTheContract := by
  rintro s d b k t hv hd rfl hp hgfc hi hfill rfl
  rw [controllerStep_arrive hd]
  have htarget := hp.rxTarget hv
  refine ⟨fun hdrop => ?_, fun hrtr hxtd hfilter => ⟨fun hfull hblock => ?_, fun hroom => ?_⟩⟩
  · rw [Ctrl.receive_dropped hi (.inl ?_)]
    · rfl
    · rw [accepts_of_rejects hgfc]
      rcases hdrop with h | h | h <;> simp [h]
  · rw [Ctrl.receive_dropped hi (.inr ?_)]
    · rfl
    · rw [htarget, if_neg (by omega), hblock]
      rfl
  · rw [Ctrl.receive_held hi ((accepts_of_rejects hgfc).mpr ⟨hrtr, hxtd, hfilter⟩) ?_]
    · rfl
    · rw [htarget]
      split
      · nofun
      · next hlt => simp [hroom.resolve_left hlt]

/-! Storing (R133, R135). -/

theorem controllerStep_rxStore {s : State} {d : BitVec 8} (hd : d.toNat < s.cfg.numDev) :
    controllerStep s d .rxStore = deliver s d := if_pos hd

theorem storeRxSlot_eq (cfg : Cfg) (mem : Memory) (k : Ctrl) (f : BusFrame) (ts : BitVec 16) (i : Nat) :
    storeRxSlot cfg mem k f ts i =
      mem.storeWords (k.rxSlotAddr cfg i 0) ([0, 1, 2, 3].map (rxSlotWord cfg.pack f ts)) := rfl

/-- A stored slot reads back as the frame and its stamp, and no byte outside it changes (R115, R133). -/
theorem storeRxSlot_reads {cfg : Cfg} {mem m : Memory} {k : Ctrl} {b : BusFrame} {ts : BitVec 16} {i : Nat}
    (hv : cfg.valid = true) (hwf : Memory.wf mem = true) (hm : m = storeRxSlot cfg mem k b ts i) :
    unpackRx cfg.pack (m.loadWord (k.rxSlotAddr cfg i 0)) (m.loadWord (k.rxSlotAddr cfg i 1)) =
      { id := b.id, rtr := b.rtr, xtd := b.xtd, dlc := b.dlc, ts := ts } ∧
    payloadOf (m.loadWord (k.rxSlotAddr cfg i 2)) (m.loadWord (k.rxSlotAddr cfg i 3)) = b.data ∧
    ∀ x, (x < k.rxSlotAddr cfg i 0 ∨ k.rxSlotAddr cfg i 0 + 16 ≤ x) → m.load x = mem.load x := by
  rw [storeRxSlot_eq] at hm
  subst hm
  have hread {w : Nat} (hw : w < 4) := Memory.loadWord_storeWords (a := k.rxSlotAddr cfg i 0) (j := w)
    (ws := [0, 1, 2, 3].map (rxSlotWord cfg.pack b ts)) hwf hw
  obtain ⟨-, -, hpack, -⟩ := packingRoundTrips cfg cfg.pack hv rfl
  refine ⟨?_, ?_, fun x hx => Memory.load_storeWords_outside hwf hx⟩
  · exact (congrArg₂ (unpackRx cfg.pack) (hread (w := 0) (by omega)) (hread (w := 1) (by omega))).trans (hpack ..)
  · exact (congrArg₂ payloadOf (hread (w := 2) (by omega)) (hread (w := 3) (by omega))).trans (payloadOf_payload b.data)

section

variable {s : State} {d : BitVec 8} {b : BusFrame} {ts : BitVec 16} {rest : List (BusFrame × BitVec 16)}
  (hi : (s.ctrlAt d).mode.init = false) (hheld : (s.ctrlAt d).rxHeld = (b, ts) :: rest)
include hi hheld

theorem deliver_stored {i : Nat} (ht : (s.ctrlAt d).rxTarget = some i) :
    deliver s d = (s.setCtrlAt d { (s.ctrlAt d).afterArrival b with rxHeld := rest }).setMem
      (storeRxSlot s.cfg s.mem (s.ctrlAt d) b ts i) := by
  simp only [deliver, hi, hheld, ht, State.setMem]

theorem deliver_discarded (ht : (s.ctrlAt d).rxTarget = none) :
    deliver s d = s.setCtrlAt d { s.ctrlAt d with rxHeld := rest } := by
  simp only [deliver, hi, hheld, ht]

end

/-- Settles O60: the slot is stored as four consecutive words; the ring decides between R133 and R135. -/
theorem storingFollowsTheContract : Obligations.StoringFollowsTheContract := by
  rintro s d k b ts rest t hv - hwf hd rfl hp hi - hfill hheld rfl
  rw [controllerStep_rxStore hd]
  have htarget := hp.rxTarget hv
  have hcount : (s.ctrlAt d).rxc.count = s.cfg.rxd := by rw [hp.rxc]
  refine ⟨fun i hslot => ?_, fun hroom => ?_, fun hfull hover => ?_, fun hfull hblock => ?_⟩
  · have ht : (s.ctrlAt d).rxTarget = some i := by
      rw [htarget]
      rcases hslot with ⟨hroom, rfl⟩ | ⟨hfull, hover, rfl⟩
      · rw [if_pos hroom]
      · rw [if_neg (by omega), if_pos hover]
    simp only [memRead, State.byteAt, deliver_stored hi hheld ht, setMem_mem, ← hp.rxSlotAddr hv]
    exact storeRxSlot_reads hv hwf rfl
  · rw [deliver_stored hi hheld (htarget.trans (if_pos hroom)), Ctrl.afterArrival, if_pos (by omega)]
    rfl
  · rw [deliver_stored (i := (s.ctrlAt d).rxGet) hi hheld (by rw [htarget, if_neg (by omega), if_pos hover]),
      Ctrl.afterArrival, if_neg (by omega), hcount]
    rfl
  · exact deliver_discarded hi hheld (by rw [htarget, if_neg (by omega), hblock]; rfl)

/-! Transmission (R137, R138). -/

theorem controllerStep_txDone {s : State} {d : BitVec 8} (hd : d.toNat < s.cfg.numDev) (junk0 junk1 : Word) :
    controllerStep s d (.txDone junk0 junk1) = transmit s d junk0 junk1 := if_pos hd

theorem controllerStep_txSend {s : State} {d : BitVec 8} (hd : d.toNat < s.cfg.numDev) (slot : Nat) :
    controllerStep s d (.txSend slot) = s.setCtrlAt d ((s.ctrlAt d).send slot) := if_pos hd

/-- A controller's step reaches no other controller. -/
theorem controllerStep_otherCtrl {s : State} {d x : BitVec 8} (e : CtrlEvent) (hx : x ≠ d) :
    (controllerStep s d e).ctrlAt x = s.ctrlAt x := by
  obtain ⟨k, m, h⟩ := controllerStep_shape s d e
  rw [h]
  exact ctrlAt_setCtrlAt_other s k hx

/-- The oldest request is transmitted without waiting for another (R137). -/
theorem Ctrl.send_oldest {k : Ctrl} {slot : Nat} {rest : List Nat} (hi : k.mode.init = false)
    (hr : k.txReq = slot :: rest) : k.send slot = { k with txSent := k.sentBut slot ++ [(slot, k.tscnt)] } := by
  simp [send, hi, hr]

/-- A stored event reads back as copied from the slot with its stamp, and no byte outside it changes (R117, R137). -/
theorem storeEvent_reads {cfg : Cfg} {mem m : Memory} {k : Ctrl} {slot i : Nat} {junk0 junk1 : Word} {h : TxIdRec}
    {ctl : TxCtlRec} (hv : cfg.valid = true) (hwf : Memory.wf mem = true) (hm : m = storeEvent cfg mem k slot i junk0 junk1)
    (hh : h = unpackTxId cfg.pack (mem.loadWord (k.txSlotAddr cfg slot 0)))
    (hctl : ctl = unpackTxCtl cfg.pack (mem.loadWord (k.txSlotAddr cfg slot 1))) :
    unpackTxe cfg.pack (m.loadWord (k.txeAddr cfg i 0)) (m.loadWord (k.txeAddr cfg i 1)) =
      { id := h.id, rtr := h.rtr, dlc := ctl.dlc, ts := k.sentAt slot, tag := ctl.tag } ∧
    ∀ x, (x < k.txeAddr cfg i 0 ∨ k.txeAddr cfg i 0 + 8 ≤ x) → m.load x = mem.load x := by
  have hwords : m = mem.storeWords (k.txeAddr cfg i 0) [packTxe0 cfg.pack h junk0,
      packTxe1 cfg.pack { dlc := ctl.dlc, ts := k.sentAt slot, tag := ctl.tag } junk1] := by
    subst hm hh hctl
    rfl
  subst hwords
  have hread {w : Nat} (hw : w < 2) := Memory.loadWord_storeWords (a := k.txeAddr cfg i 0) (j := w)
    (ws := [packTxe0 cfg.pack h junk0, packTxe1 cfg.pack { dlc := ctl.dlc, ts := k.sentAt slot, tag := ctl.tag } junk1])
    hwf hw
  obtain ⟨-, -, -, -, -, hpack⟩ := packingRoundTrips cfg cfg.pack hv rfl
  refine ⟨?_, fun x hx => Memory.load_storeWords_outside hwf hx⟩
  exact (congrArg₂ (unpackTxe cfg.pack) (hread (w := 0) (by omega)) (hread (w := 1) (by omega))).trans (hpack ..)

/-- Whether it leaves an event or not, a completion leaves `tx_put` as `settled` does. -/
theorem transmit_txPut {s : State} {d : BitVec 8} {slot : Nat} {rest : List Nat} (hi : (s.ctrlAt d).mode.init = false)
    (hr : (s.ctrlAt d).txReq = slot :: rest) (junk0 junk1 : Word) :
    ((transmit s d junk0 junk1).ctrlAt d).txPut = ((s.ctrlAt d).completed slot rest).txPut := by
  cases he : storesEvent s.cfg s.mem (s.ctrlAt d) slot with
  | true => rw [transmit_stored hi hr junk0 junk1 he, setMem_ctrlAt, ctrlAt_setCtrlAt_same]
  | false => rw [transmit_silent hi hr junk0 junk1 he, ctrlAt_setCtrlAt_same]

theorem Ctrl.completed_eq (k : Ctrl) (slot : Nat) (rest : List Nat) :
    k.completed slot rest =
      { k with
        txReq := rest, txPut := (k.completed slot rest).txPut, txSent := k.sentBut slot, ir := { k.ir with txDone := true },
        psr := { k.psr with lec := 0 } } := Ctrl.settled_eq _

theorem Ctrl.completed_txPut_of_free {k : Ctrl} {rest : List Nat} (slot : Nat) (h : k.txPut ∉ rest) :
    (k.completed slot rest).txPut = k.txPut := by
  rw [completed, settled_of_free (k := k.unrequested slot rest) h]
  rfl

theorem Ctrl.completed_txPut_free {k : Ctrl} {rest : List Nat} (slot : Nat) (h : rest.length < k.txc.count) :
    (k.completed slot rest).txPut ∉ rest :=
  settled_free (k.unrequested slot rest) h

/-- Settles O58: the completed request leaves by R137, and its event is stored as two consecutive words. -/
theorem transmissionFollowsTheContract : Obligations.TransmissionFollowsTheContract := by
  rintro s d k slot rest junk0 junk1 h ctl i others p t hv - hwf hd rfl hp hi hr - - rfl rfl rfl rfl rfl rfl
  have hcount : (s.ctrlAt d).txc.count = s.cfg.txd := by rw [hp.txc]
  have hecount : (s.ctrlAt d).txec.count = s.cfg.txed := by rw [hp.txec]
  have hevent : storesEvent s.cfg s.mem (s.ctrlAt d) slot =
      ((unpackTxCtl s.cfg.pack (memRead s (s.cfg.txWord slot 1))).evt && decide ((s.ctrlAt d).txeFill < s.cfg.txed)) := by
    rw [storesEvent, hp.txSlotAddr hv, hecount, memRead]
  refine ⟨?_, ?_, fun x hx => controllerStep_otherCtrl _ hx, ?_, fun hevt hroom => ?_, fun hno => ?_⟩
  · rw [controllerStep_txDone hd, transmit_txPut hi hr]
    exact Ctrl.completed_txPut_of_free slot
  · rw [controllerStep_txDone hd, transmit_txPut hi hr]
    exact fun hlt hlen => ⟨Ctrl.settled_txPut_lt hcount.le hlt, Ctrl.completed_txPut_free slot (hcount.symm ▸ hlen)⟩
  · rw [controllerStep_txSend hd, Ctrl.send_oldest hi hr]
    rfl
  · have ht := transmit_stored hi hr junk0 junk1 (by rw [hevent, hevt, decide_eq_true hroom]; rfl)
    rw [controllerStep_txDone hd, transmit_txPut hi hr, ht, hecount]
    refine ⟨congrArg (fun c : Ctrl => (s.setCtrlAt d { c with txeFill := (s.ctrlAt d).txeFill + 1 }).setMem _)
      (Ctrl.completed_eq ..), ?_⟩
    simp only [State.eventAt, memRead, State.byteAt, setMem_mem, setMem_cfg, setCtrlAt_cfg, ← hp.txeAddr hv,
      ← hp.txSlotAddr hv]
    exact storeEvent_reads (k := s.ctrlAt d) (junk0 := junk0) (junk1 := junk1) hv hwf rfl rfl rfl
  · rw [controllerStep_txDone hd, transmit_txPut hi hr, transmit_silent hi hr junk0 junk1]
    · exact congrArg (s.setCtrlAt d) (Ctrl.completed_eq ..)
    · rw [hevent]
      rcases hno with h | h <;> simp [h]

/-! Initialisation mode (R131). -/

@[simp] theorem setCtrlAt_ctrlAt (s : State) (d : BitVec 8) : s.setCtrlAt d (s.ctrlAt d) = s := by
  simp [State.setCtrlAt, State.ctrlAt]

/-- Settles O55: with `init = 1` each of these events takes its idle branch. -/
theorem initialisationModeIsSilent : Obligations.InitialisationModeIsSilent := by
  refine ⟨fun s r => ?_, fun s d e hinit hevent => ?_⟩
  · cases hr : r.init <;> simp [devWrite, Ctrl.setMode, hr]
  · by_cases hd : d.toNat < s.cfg.numDev
    · rcases hevent with ⟨j0, j1, rfl⟩ | ⟨i, rfl⟩ | ⟨b, rfl⟩ | rfl | ⟨w, rfl⟩
      · simp [controllerStep_txDone hd, transmit, hinit]
      · simp [controllerStep_txSend hd, Ctrl.send, hinit]
      · simp [controllerStep_arrive hd, Ctrl.receive, hinit]
      · simp [controllerStep_rxStore hd, deliver, hinit]
      · simp [controllerStep, receiveWord, hinit]
    · exact if_neg hd

/-! Host accesses (R104). -/

/-- Settles O11: such an access is not `hostAligned`. -/
theorem hostAccessIsAligned32 : Obligations.HostAccessIsAligned32 := by
  intro s off bytes v h
  have hfalse : hostAligned off bytes = false := by
    rcases h with h | h <;> simp [hostAligned, h]
  simp [hostWrite, hostRead, hfalse]

end Machine
end Sys2Proof
end

section
/-! PROOF. The command words (`30_encoding.md` R150 to R155, R165, R166): the decoder undoes the encoder, and what the match
and mask table, the illegal words, the operand fields and the assembler are follows from that or from the fields of the
format. -/

namespace Sys2Proof

/-! The encoder's operand fields (R150, R154). -/

@[simp] theorem encode_init_dev (dev : BitVec 8) : (encode (.init dev)).extractLsb' 0 8 = dev :=
  BitVec.extractLsb'_append_eq_right

@[simp] theorem encode_aadd_mask (id mask : BitVec 11) : (encode (.aadd id mask)).extractLsb' 0 11 = mask :=
  BitVec.extractLsb'_append_eq_right

@[simp] theorem encode_aadd_id (id mask : BitVec 11) : (encode (.aadd id mask)).extractLsb' 16 11 = id := by
  simp only [encode, BitVec.extractLsb'_append_eq_ite]
  simp

@[simp] theorem encode_tsrec_ts (ts : BitVec 16) : (encode (.tsrec ts)).extractLsb' 0 16 = ts :=
  BitVec.extractLsb'_append_eq_right

/-! The formats that carry operands, once the opcode is known. -/

theorem decode_opInit {w : Word} (h : opField w = 0x1#4) : decode w = decodeD w := by simp [decode, h]

theorem decode_opAadd {w : Word} (h : opField w = 0x7#4) : decode w = decodeF w := by simp [decode, h]

theorem decode_opTsrec {w : Word} (h : opField w = 0xA#4) : decode w = decodeT w := by simp [decode, h]

/-- Every field of the encoding stands where its format's decoder reads it. -/
theorem decode_encode (i : Instr) : decode (encode i) = .ok i := by
  cases i with
  | init dev =>
    rw [decode_opInit, decodeD, if_pos, encode_init_dev] <;>
      simp only [encode, opField, BitVec.extractLsb'_append_eq_ite] <;> simp
  | aadd id mask =>
    rw [decode_opAadd, decodeF, if_pos, encode_aadd_id, encode_aadd_mask] <;>
      simp only [encode, opField, BitVec.extractLsb'_append_eq_ite] <;> simp
  | tsrec ts =>
    rw [decode_opTsrec, decodeT, if_pos, encode_tsrec_ts] <;>
      simp only [encode, opField, BitVec.extractLsb'_append_eq_ite] <;> simp
  | _ => rfl

/-! A word is its fields side by side: what a format's decoder takes is that format's encoding. -/

theorem decodeZ_ok {w : Word} {i j : Instr} (h : decodeZ w i = .ok j) : j = i ∧ opField w ++ 0#28 = w := by
  unfold decodeZ at h
  split at h <;> cases h
  next hz => exact ⟨rfl, by rw [← BitVec.ofNat_eq_ofNat, ← hz, opField, BitVec.extractLsb'_append_extractLsb']⟩

theorem encode_of_decodeD {w : Word} {i : Instr} (hop : opField w = 0x1#4) (h : decodeD w = .ok i) : encode i = w := by
  unfold decodeD at h
  split at h <;> cases h
  next hz =>
  calc encode (.init (w.extractLsb' 0 8)) = opField w ++ w.extractLsb' 8 20 ++ w.extractLsb' 0 8 := by
        rw [hop, hz]; rfl
    _ = w := by simp only [opField, BitVec.extractLsb'_append_extractLsb'_eq_extractLsb', BitVec.extractLsb'_eq_self]

theorem encode_of_decodeF {w : Word} {i : Instr} (hop : opField w = 0x7#4) (h : decodeF w = .ok i) : encode i = w := by
  unfold decodeF at h
  split at h <;> cases h
  next hz =>
  obtain ⟨hz27, hz11⟩ := hz
  calc encode (.aadd (w.extractLsb' 16 11) (w.extractLsb' 0 11))
      = opField w ++ w.extractLsb' 27 1 ++ w.extractLsb' 16 11 ++ w.extractLsb' 11 5 ++ w.extractLsb' 0 11 := by
        rw [hop, hz27, hz11]; rfl
    _ = w := by simp only [opField, BitVec.extractLsb'_append_extractLsb'_eq_extractLsb', BitVec.extractLsb'_eq_self]

theorem encode_of_decodeT {w : Word} {i : Instr} (hop : opField w = 0xA#4) (h : decodeT w = .ok i) : encode i = w := by
  unfold decodeT at h
  split at h <;> cases h
  next hz =>
  calc encode (.tsrec (w.extractLsb' 0 16)) = opField w ++ w.extractLsb' 16 12 ++ w.extractLsb' 0 16 := by
        rw [hop, hz]; rfl
    _ = w := by simp only [opField, BitVec.extractLsb'_append_extractLsb'_eq_extractLsb', BitVec.extractLsb'_eq_self]

theorem encode_of_decode {w : Word} {i : Instr} (h : decode w = .ok i) : encode i = w := by
  unfold decode at h
  split at h
  case h_2 hop => exact encode_of_decodeD (BitVec.eq_of_toNat_eq hop) h
  case h_8 hop => exact encode_of_decodeF (BitVec.eq_of_toNat_eq hop) h
  case h_11 hop => exact encode_of_decodeT (BitVec.eq_of_toNat_eq hop) h
  case h_15 => cases h
  -- The other opcodes are of format Z.
  all_goals
    obtain ⟨rfl, hw⟩ := decodeZ_ok h
    rw [← hw]
    exact congrArg (· ++ 0#28) (BitVec.eq_of_toNat_eq ‹_›).symm

/-- Settles O1: `encode_of_decode` one way, `decode_encode` the other. -/
theorem decodeIsInverseOfEncode : Obligations.DecodeIsInverseOfEncode :=
  fun _ i => ⟨encode_of_decode, fun h => h ▸ decode_encode i⟩

/-! The match and mask table (R153). -/

/-- In a field that the mask keeps, a word that meets the match has the match's bits. -/
theorem field_of_masked {w m v : Word} {lo n : Nat} (h : w &&& m = v) (hm : m.extractLsb' lo n = BitVec.allOnes n) :
    w.extractLsb' lo n = v.extractLsb' lo n := by
  rw [← h, BitVec.extractLsb'_and, hm, BitVec.and_allOnes]

/-- Every mask keeps the opcode. -/
theorem opField_of_meets {w : Word} {i : Instr} (h : w &&& rowMask i = rowMatch i) : opField w = opField (rowMatch i) :=
  field_of_masked h (by cases i <;> simp only [rowMask] <;> decide)

/-- The rows of the table have different opcodes. -/
theorem tableRow_eq_of_opField :
    ∀ r ∈ tableRows, ∀ q ∈ tableRows, opField (rowMatch r) = opField (rowMatch q) → r = q := by
  decide

theorem encode_meets_row (i : Instr) : encode i &&& rowMask i = rowMatch i := by
  cases i with
  | init dev => exact Laws.Row.init dev
  | aadd id mask => exact Laws.Row.aadd id mask
  | tsrec ts => exact Laws.Row.tsrec ts
  | _ => decide

/-- The row of an instruction is that of its operation with operands 0. -/
theorem exists_tableRow (i : Instr) : ∃ r ∈ tableRows, rowMatch i = rowMatch r ∧ rowMask i = rowMask r := by
  cases i with
  | init dev => exact ⟨.init 0, by decide, rfl, rfl⟩
  | aadd id mask => exact ⟨.aadd 0 0, by decide, rfl, rfl⟩
  | tsrec ts => exact ⟨.tsrec 0, by decide, rfl, rfl⟩
  | _ => exact ⟨_, by decide, rfl, rfl⟩

theorem tableRow_of_decode {w : Word} {i : Instr} (h : decode w = .ok i) :
    ∃ r ∈ tableRows, w &&& rowMask r = rowMatch r ∧ rowMatch i = rowMatch r ∧ rowMask i = rowMask r := by
  obtain rfl := encode_of_decode h
  obtain ⟨r, hr, hmatch, hmask⟩ := exists_tableRow i
  exact ⟨r, hr, by rw [← hmask, ← hmatch, encode_meets_row], hmatch, hmask⟩

/-- The mask keeps the opcode and the bits that must be zero, which is all that the decoder checks. -/
theorem decode_of_meets {w : Word} {i : Instr} (h : w &&& rowMask i = rowMatch i) : ∃ j, decode w = .ok j := by
  cases i with
  | init dev =>
    have field {lo n : Nat} := field_of_masked (m := 0xFFFFFF00) (v := 0x10000000) (lo := lo) (n := n) h
    have hop : opField w = 0x1#4 := field (by decide)
    have hz : w.extractLsb' 8 20 = 0 := field (by decide)
    exact ⟨_, by rw [decode_opInit hop, decodeD, if_pos hz]⟩
  | aadd id mask =>
    have field {lo n : Nat} := field_of_masked (m := 0xF800F800) (v := 0x70000000) (lo := lo) (n := n) h
    have hop : opField w = 0x7#4 := field (by decide)
    have hz : w.extractLsb' 27 1 = 0 ∧ w.extractLsb' 11 5 = 0 := ⟨field (by decide), field (by decide)⟩
    exact ⟨_, by rw [decode_opAadd hop, decodeF, if_pos hz]⟩
  | tsrec ts =>
    have field {lo n : Nat} := field_of_masked (m := 0xFFFF0000) (v := 0xA0000000) (lo := lo) (n := n) h
    have hop : opField w = 0xA#4 := field (by decide)
    have hz : w.extractLsb' 16 12 = 0 := field (by decide)
    exact ⟨_, by rw [decode_opTsrec hop, decodeT, if_pos hz]⟩
  | _ =>
    obtain rfl : w = _ := BitVec.and_allOnes.symm.trans h
    exact ⟨_, rfl⟩

theorem exists_error_iff (w : Word) : (∃ e, decode w = .error e) ↔ ∀ i, decode w ≠ .ok i := by
  cases decode w <;> simp

/-- Settles O2: a row is known by its opcode, and meeting a row is decoding. -/
theorem decodeByMatchAndMask : Obligations.DecodeByMatchAndMask := by
  refine ⟨by decide, fun w r hr q hq h h' => ?_, fun w i h => tableRow_of_decode h, fun w => ?_⟩
  · exact tableRow_eq_of_opField r hr q hq ((opField_of_meets h).symm.trans (opField_of_meets h'))
  · rw [exists_error_iff]
    constructor
    · intro hnone i hi
      obtain ⟨r, hr, hmeets, -⟩ := tableRow_of_decode hi
      exact hnone r hr hmeets
    · intro hno r _ hmeets
      obtain ⟨i, hi⟩ := decode_of_meets hmeets
      exact hno i hi

/-! Fields as unsigned integers (R150, R154). -/

theorem toNat_field (w : Word) (lo n : Nat) : (w.extractLsb' lo n).toNat = w.toNat / 2 ^ lo % 2 ^ n := by
  rw [BitVec.extractLsb'_toNat, Nat.shiftRight_eq_div_pow]

theorem toNat_opField (w : Word) : (opField w).toNat = w.toNat / 2 ^ 28 := by
  rw [opField, toNat_field, Nat.mod_eq_of_lt]
  have := w.isLt
  omega

theorem field_eq_zero {w : Word} {lo n : Nat} : w.extractLsb' lo n = 0 ↔ w.toNat / 2 ^ lo % 2 ^ n = 0 := by
  rw [← BitVec.toNat_inj, toNat_field]
  rfl

/-- Settles O4: the word is the encoding, whose fields are the operands. -/
theorem operandFieldsAreUnsigned : Obligations.OperandFieldsAreUnsigned := by
  intro w
  refine ⟨fun dev h => ?_, fun id mask h => ⟨?_, ?_⟩, fun ts h => ?_⟩ <;> obtain rfl := encode_of_decode h
  · simpa using toNat_field (encode (.init dev)) 0 8
  · simpa using toNat_field (encode (.aadd id mask)) 16 11
  · simpa using toNat_field (encode (.aadd id mask)) 0 11
  · simpa using toNat_field (encode (.tsrec ts)) 0 16

/-- Settles O5: each word is decoded. -/
theorem sampleWordsDecode : Obligations.SampleWordsDecode := by
  unfold Obligations.SampleWordsDecode
  decide

/-! Illegal words (R155). -/

theorem exists_error_ite {p : Prop} [Decidable p] {i : Instr} :
    (∃ e, (if p then .ok i else .error .mustBeZero : Except DecodeError Instr) = .error e) ↔ ¬p := by
  split <;> simp [*]

theorem decodeZ_error {w : Word} {i : Instr} : (∃ e, decodeZ w i = .error e) ↔ w.toNat % 2 ^ 28 ≠ 0 := by
  rw [decodeZ, exists_error_ite, field_eq_zero, Nat.pow_zero, Nat.div_one]

theorem decodeD_error {w : Word} : (∃ e, decodeD w = .error e) ↔ w.toNat / 2 ^ 8 % 2 ^ 20 ≠ 0 := by
  rw [decodeD, exists_error_ite, field_eq_zero]

theorem decodeF_error {w : Word} :
    (∃ e, decodeF w = .error e) ↔ w.toNat / 2 ^ 27 % 2 ≠ 0 ∨ w.toNat / 2 ^ 11 % 2 ^ 5 ≠ 0 := by
  rw [decodeF, exists_error_ite, field_eq_zero, field_eq_zero, Nat.pow_one, not_and_or]

theorem decodeT_error {w : Word} : (∃ e, decodeT w = .error e) ↔ w.toNat / 2 ^ 16 % 2 ^ 12 ≠ 0 := by
  rw [decodeT, exists_error_ite, field_eq_zero]

/-- A bit that the format of the word's opcode shows as 0 is 1 (R150). -/
def StrayBits (w : Word) : Prop :=
  if w.toNat / 2 ^ 28 = 0x1 then w.toNat / 2 ^ 8 % 2 ^ 20 ≠ 0
  else if w.toNat / 2 ^ 28 = 0x7 then w.toNat / 2 ^ 27 % 2 ≠ 0 ∨ w.toNat / 2 ^ 11 % 2 ^ 5 ≠ 0
  else if w.toNat / 2 ^ 28 = 0xA then w.toNat / 2 ^ 16 % 2 ^ 12 ≠ 0
  else w.toNat % 2 ^ 28 ≠ 0

theorem decode_error_iff (w : Word) :
    (∃ e, decode w = .error e) ↔ w.toNat / 2 ^ 28 = 0xE ∨ w.toNat / 2 ^ 28 = 0xF ∨ StrayBits w := by
  rw [StrayBits, ← toNat_opField]
  have hlt := (opField w).isLt
  unfold decode
  split
  case h_2 hop => simpa [hop] using decodeD_error
  case h_8 hop => simpa [hop] using decodeF_error
  case h_11 hop => simpa [hop] using decodeT_error
  case h_15 =>
    have hreserved : (opField w).toNat = 0xE ∨ (opField w).toNat = 0xF := by grind
    rcases hreserved with h | h <;> simp [h]
  all_goals simpa [*] using decodeZ_error

/-! The assembler (R165, R166). -/

namespace AsmCmd

theorem word_eq_none_iff (a : AsmCmd) : a.word = none ↔ a.wellFormed = false := by
  rw [word, Option.map_eq_none_iff]
  unfold assemble
  cases a.wellFormed
  · simp
  · cases a <;> simp

theorem wellFormed_eq_false_iff (a : AsmCmd) : a.wellFormed = false ↔
    (∃ dev, a = .init dev ∧ 255 < dev) ∨ (∃ id mask, a = .aadd id mask ∧ (0x7FF < id ∨ 0x7FF < mask)) ∨
    (∃ ts, a = .tsrec ts ∧ 0xFFFF < ts) ∨ (∃ id, a = .accept id ∧ 0x7FF < id) := by
  cases a <;> simp [wellFormed, or_iff_not_imp_left]

theorem decode_word {a : AsmCmd} {w : Word} (h : a.word = some w) : ∃ i, a.assemble = some i ∧ decode w = .ok i := by
  obtain ⟨i, hi, rfl⟩ := Option.map_eq_some_iff.mp h
  exact ⟨i, hi, decode_encode i⟩

end AsmCmd

/-- Settles O6: a well-formed operand is below the power of its field's width, so the field holds it whole. -/
theorem assemblerNeverTruncates : Obligations.AssemblerNeverTruncates := by
  refine ⟨fun a => a.word_eq_none_iff.trans a.wellFormed_eq_false_iff, fun dev w h => ?_, fun id mask w h => ?_,
    fun ts w h => ?_, fun id => by simp [AsmCmd.word, AsmCmd.assemble, AsmCmd.wellFormed], rfl, rfl⟩ <;>
    obtain ⟨i, hi, hw⟩ := AsmCmd.decode_word h
  · obtain ⟨hfit, rfl⟩ : dev ≤ 255 ∧ .init (BitVec.ofNat 8 dev) = i := by
      simpa [AsmCmd.assemble, AsmCmd.wellFormed] using hi
    exact ⟨_, Nat.mod_eq_of_lt (by omega), hw⟩
  · obtain ⟨⟨hid, hmask⟩, rfl⟩ : (id ≤ 0x7FF ∧ mask ≤ 0x7FF) ∧ .aadd (BitVec.ofNat 11 id) (BitVec.ofNat 11 mask) = i := by
      simpa [AsmCmd.assemble, AsmCmd.wellFormed] using hi
    exact ⟨_, _, Nat.mod_eq_of_lt (by omega), Nat.mod_eq_of_lt (by omega), hw⟩
  · obtain ⟨hfit, rfl⟩ : ts ≤ 0xFFFF ∧ .tsrec (BitVec.ofNat 16 ts) = i := by
      simpa [AsmCmd.assemble, AsmCmd.wellFormed] using hi
    exact ⟨_, Nat.mod_eq_of_lt (by omega), hw⟩

end Sys2Proof
end

section
/-! PROOF. The command ports (`30_encoding.md` R160 to R162): submission, the acceptance step, the end of a command. -/

namespace Sys2Proof.Machine

/-! Submission and acceptance. -/

theorem submit_busy {s : State} {c : Ctx} (w : Word) (h : s.frame c ≠ none) :
    submit c w s = s.setPort c { s.port c with stat := { (s.port c).stat with ovr := true } } :=
  if_pos (Option.isSome_iff_ne_none.mpr h)

theorem submit_idle {s : State} {c : Ctx} (w : Word) (h : s.frame c = none) : submit c w s = accept c w s :=
  if_neg (by simp [h])

/-- Settles O10: a write at either offset is `submit`, which asks only whether the port holds a frame. -/
theorem busyPortIgnoresCommands : Obligations.BusyPortIgnoresCommands :=
  ⟨fun _ _ => ⟨rfl, rfl⟩, fun _ _ w h => submit_busy w h, fun _ _ w h => submit_idle w h⟩

@[simp] theorem setPort_setPort (s : State) (c : Ctx) (p q : Port) : (s.setPort c p).setPort c q = s.setPort c q := by
  cases c <;> rfl

/-- A refusal on an idle port: the word, the code, no frame. -/
theorem refuseCommand_latchCommand {s : State} {c : Ctx} {e : ResultCode} (w : Word) (h : s.frame c = none)
    (he : e ≠ .ok) :
    refuseCommand c e (latchCommand c w s) =
      s.setPort c { cmd := w, stat := doneStat e 0 false false, frame := none } := by
  rw [State.frame] at h
  simp [refuseCommand, latchCommand, doneStat, Stat.clear, h, he]

theorem startCommand_latchCommand (s : State) (c : Ctx) (w : Word) (i : Instr) :
    startCommand c i (latchCommand c w s) =
      s.setPort c { cmd := w, stat := Stat.clear, frame := some (Frame.start i) } := by
  simp [startCommand, State.setFrame, latchCommand]

/-- The operations refused on `CMD_IS` (R156). -/
theorem isAdmitted_eq_false_iff (i : Instr) :
    isAdmitted i = false ↔ i ∉ [Instr.nop, .htx, .hrx, .htxe, .rpsr, .upderr] ∧ ∀ ts, i ≠ .tsrec ts := by
  cases i <;> simp [isAdmitted]

/-- The operations refused while `CSTATE.inst = 0` (R157). -/
theorem noInstAdmitted_eq_false_iff (i : Instr) :
    noInstAdmitted i = false ↔ i ∉ [Instr.nop, .solve] ∧ ∀ dev, i ≠ .init dev := by
  cases i <;> simp [noInstAdmitted]

/-- Settles O9: `accept` makes the checks in the order of R161; each branch is a refusal or the start of the command. -/
theorem acceptanceChecksInOrder : Obligations.AcceptanceChecksInOrder := by
  intro s c w hidle
  rw [submit_idle w hidle, accept]
  cases decode w with
  | error e => exact refuseCommand_latchCommand w hidle nofun
  | ok i =>
    simp only [isAdmitted_eq_false_iff, noInstAdmitted_eq_false_iff, latchCommand_regs]
    split_ifs
    · exact refuseCommand_latchCommand w hidle nofun
    · exact refuseCommand_latchCommand w hidle nofun
    · exact startCommand_latchCommand s c w i

/-- Settles O3: `decode_error_iff`, and the first check of the acceptance step. -/
theorem illegalWordsHaveNoEffect : Obligations.IllegalWordsHaveNoEffect := by
  refine ⟨decode_error_iff, fun s c w ⟨e, he⟩ hidle => ?_⟩
  rw [submit_idle w hidle, accept, he]
  exact refuseCommand_latchCommand w hidle nofun

/-! The end of a command. -/

/-- Settles O15: by `exec_shape` a step ends its frame by `finish`, which writes `STAT_c`, or goes on by `goto`, which does
not. -/
theorem completionWritesStatus : Obligations.CompletionWritesStatus := by
  intro s t c f hc h
  obtain ⟨c', f', hc', -, hend | hgoon⟩ := exec_shape h <;> obtain ⟨rfl, rfl⟩ := by simpa [hc] using hc'
  · obtain ⟨u, g, e, rfl, hfg, his, hn, hbp, he⟩ := hend
    have hport : u.port c = s.port c := by cases c <;> assumption
    refine ⟨by rw [cmd_finish, hport], fun _ => ⟨e, ?_, he⟩, fun hne => absurd (frame_finish_same u c g e) hne⟩
    rw [stat_finish, hport, hn, hbp, doneStat]
  · obtain ⟨u, g, l, rfl, hfg, his, -⟩ := hgoon
    have hport : u.port c = s.port c := by cases c <;> assumption
    refine ⟨by rw [cmd_goto, hport], fun hnone => ?_, fun _ => by rw [stat_goto, hport]⟩
    rw [frame_goto_same] at hnone
    cases hnone

end Sys2Proof.Machine
end

section
/-! PROOF. The lifecycle operations (`40_lifecycle.md`): the steps of NOP, INIT, DISABLE and ENABLE, and that `inst` and
`dev` change at INIT's first step alone. -/

namespace Sys2Proof.Machine

/-! A step at a known label. -/

/-- A meaning is its rule for the label of the current frame. -/
theorem withFrame_at {s : State} {c : Ctx} {f : Frame} {l : Label} (k : Ctx → Frame → Result) (h : s.At c f l) :
    withFrame s k = k c { f with seq := l } := by
  obtain ⟨hc, rfl⟩ := h
  exact withFrame_current hc

/-- A step that writes a configuration register, in configuration mode (`20_memory.md` R132). -/
theorem withFrame_configWrite {s : State} {c : Ctx} {f : Frame} {l l' : Label} {rule : Ctx → Frame → Result} {k : Ctrl}
    (hcfg : s.ctrl.configMode = true) (h : s.At c f l)
    (hrule : rule c { f with seq := l } = .next ((writeConfig s k).moved c f l') := by rfl) :
    withFrame s rule = .next ((s.setCtrl k).moved c f l') := by
  rw [withFrame_at rule h, hrule, writeConfig_config k hcfg]

/-! The operations. -/

/-- Settles O21: the rule for NOP's one label ends the frame. -/
theorem nopOnlyCompletes : Obligations.NopOnlyCompletes := fun _ _ _ h => withFrame_at _ h

/-- Settles O22: the two branches of the device check. -/
theorem initChecksItsDevice : Obligations.InitChecksItsDevice := by
  intro s c f dev h
  have hstep : exec (.init dev) s =
      if s.cfg.numDev ≤ dev.toNat then .next (s.ended c f .badDev)
      else .next ((s.setRegs (initRegs dev s.regs)).moved c f .initS1) := withFrame_at _ h
  exact ⟨fun hbad => hstep.trans (if_pos hbad), fun hok => hstep.trans (if_neg (Nat.not_le.mpr hok))⟩

/-- Settles O23: the rule for each label is the step; a configuration register takes its value by `withFrame_configWrite`. -/
theorem initProgramsTheController : Obligations.InitProgramsTheController := by
  rintro s c f dev _ rfl
  refine ⟨withFrame_at _, withFrame_at _, withFrame_at _, fun _ => withFrame_at _, withFrame_at _, withFrame_at _,
    withFrame_at _, fun hinit hcce => ?_⟩
  have hcfg : s.ctrl.configMode = true := by rw [Ctrl.configMode, hinit, hcce]; rfl
  exact ⟨withFrame_configWrite hcfg, withFrame_configWrite hcfg, withFrame_configWrite hcfg, withFrame_configWrite hcfg,
    withFrame_configWrite hcfg, withFrame_configWrite hcfg⟩

/-- Settles O24: the rule for each label is the step. -/
theorem disableAndEnableWriteMode : Obligations.DisableAndEnableWriteMode := by
  rintro s c f _ rfl
  exact ⟨withFrame_at _, withFrame_at _, withFrame_at _⟩

/-! `inst` and `dev`. -/

/-- Other agents but the reset input write at most the parameter registers (`10_state.md` R34). -/
theorem agentMove_regs {m : Turn} (s : State) (hm : m ≠ .reset) :
    ∃ clock rate sp rj,
      (agentMove m s).regs = { s.regs with pClock := clock, pRate := rate, pSp := sp, pRj := rj } := by
  cases m with
  | hostWrite off bytes v =>
    rw [agentMove]
    rcases hostWrite_shape s off bytes v with ⟨c, h⟩ | ⟨clock, rate, sp, rj, h⟩ | h <;> rw [h]
    · obtain ⟨p, hp⟩ := submit_shape c v s
      rw [hp, setPort_regs]
      exact ⟨_, _, _, _, rfl⟩
    · exact ⟨clock, rate, sp, rj, rfl⟩
    · exact ⟨_, _, _, _, rfl⟩
  | ctrl d e =>
    obtain ⟨k, mem, h⟩ := controllerStep_shape s d e
    rw [agentMove, h]
    exact ⟨_, _, _, _, rfl⟩
  | seq | source q | clock ticks => exact ⟨_, _, _, _, rfl⟩
  | reset => exact absurd rfl hm

/-- `inst` and `dev` after a step of an operation: INIT's first step binds the device it has checked, every other step keeps
both (R191, R194). -/
theorem RegEffect.binding_cases {i : Instr} {l : Label} {s : State} {r : HostRegs} (h : RegEffect i l s r) :
    (∃ dev, i = .init dev ∧ l = .initS0 ∧ dev.toNat < s.cfg.numDev ∧ r.cstate.inst = true ∧ r.cstate.dev = dev) ∨
    (r.cstate.inst = s.regs.cstate.inst ∧ r.cstate.dev = s.regs.cstate.dev) := by
  cases h with
  | bind dev hdev hi hl => exact .inl ⟨dev, hi, hl, hdev, rfl, rfl⟩
  | enabled hi => exact .inr (by simp)
  | keep | disabled | solved | retimed | filtersCounted | stamped | received | statusRead | countersRead =>
    exact .inr ⟨rfl, rfl⟩

/-- `inst` and `dev` after a step of the system that is no reset pulse. -/
theorem step_binding_cases {s t : State} (h : step s = .next t) (hreset : s.mover ≠ .reset) :
    (s.mover = .seq ∧ ∃ c f dev, s.current = some (c, f) ∧ f.op = .init dev ∧ f.seq = .initS0 ∧
      dev.toNat < s.cfg.numDev ∧ t.regs.cstate.inst = true ∧ t.regs.cstate.dev = dev) ∨
    (t.regs.cstate.inst = s.regs.cstate.inst ∧ t.regs.cstate.dev = s.regs.cstate.dev) := by
  rcases step_next_cases h with ⟨hm, c, f, hc, hexec⟩ | ⟨-, -, rfl⟩ | ⟨-, rfl⟩
  · rcases (exec_effect (s := { s with sched := s.sched.tail }) hc hexec).regs.binding_cases with ⟨dev, hbind⟩ | hkeep
    · exact .inl ⟨hm, c, f, dev, hc, hbind⟩
    · exact .inr hkeep
  · exact .inr ⟨rfl, rfl⟩
  · obtain ⟨_, _, _, _, hregs⟩ := agentMove_regs { s with sched := s.sched.tail } hreset
    rw [hregs]
    exact .inr ⟨rfl, rfl⟩

/-- Settles O49: by `step_binding_cases` the step is the first of an INIT that passes its check, or keeps `inst` and `dev`. -/
theorem onlyResetEndsTheInstance : Obligations.OnlyResetEndsTheInstance := by
  intro s t h hreset
  rcases step_binding_cases h hreset with ⟨hm, c, f, dev, hc, hop, hseq, hcheck, hinst, hdev⟩ | ⟨hinst, hdev⟩
  · exact ⟨fun _ => hinst, fun hno => absurd ⟨hm, c, f, dev, hc, hop, hseq⟩ hno,
      fun _ => ⟨hm, c, f, dev, hc, hop, hseq, hcheck, hinst, hdev⟩⟩
  · exact ⟨hinst.trans, fun _ => ⟨hinst, hdev⟩, fun hchange => hchange.elim (absurd hinst) (absurd hdev)⟩

end Sys2Proof.Machine
end

section
/-! PROOF. The bit-timing solver (`41_bit_timing.md` R220 to R232). The search of R227 is said once, by where it stops and with
what; the ranges of R232 are then those of a candidate that fits and of a fallback. -/

namespace Sys2Proof.Machine

/-! The search (R226, R227). -/

/-- `r` is where a search from prescaler `p` on stops, and with what (R226, R227). `sp` and `rj` are conditioned. -/
structure SearchStop (cfg : Cfg) (clock rate sp rj p : Nat) (r : BitTiming) : Prop where
  start : p ≤ r.presc
  last : r.presc ≤ cfg.prescMax
  passed : ∀ q, p ≤ q → q < r.presc →
    ¬ fits cfg sp rj (quantaPerBit clock rate q) ∧ cfg.fbThreshold ≤ quantaPerBit clock rate q
  fit : fits cfg sp rj (quantaPerBit clock rate r.presc) →
    r = fitted cfg sp rj r.presc (quantaPerBit clock rate r.presc)
  noFit : ¬ fits cfg sp rj (quantaPerBit clock rate r.presc) →
    (quantaPerBit clock rate r.presc < cfg.fbThreshold ∨ r.presc = cfg.prescMax) ∧
      r = fallback cfg r.presc (quantaPerBit clock rate r.presc)

namespace SearchStop

variable {cfg : Cfg} {clock rate sp rj p : Nat} {r : BitTiming}

theorem of_fits (hp : p ≤ cfg.prescMax) (hfit : fits cfg sp rj (quantaPerBit clock rate p)) :
    SearchStop cfg clock rate sp rj p (fitted cfg sp rj p (quantaPerBit clock rate p)) :=
  ⟨le_rfl, hp, fun _ hq hlt => absurd hq hlt.not_ge, fun _ => rfl, absurd hfit⟩

theorem of_stop (hp : p ≤ cfg.prescMax) (hfit : ¬ fits cfg sp rj (quantaPerBit clock rate p))
    (hstop : quantaPerBit clock rate p < cfg.fbThreshold ∨ p = cfg.prescMax) :
    SearchStop cfg clock rate sp rj p (fallback cfg p (quantaPerBit clock rate p)) :=
  ⟨le_rfl, hp, fun _ hq hlt => absurd hq hlt.not_ge, (absurd · hfit), fun _ => ⟨hstop, rfl⟩⟩

theorem of_next (hfit : ¬ fits cfg sp rj (quantaPerBit clock rate p)) (hb : cfg.fbThreshold ≤ quantaPerBit clock rate p)
    (h : SearchStop cfg clock rate sp rj (p + 1) r) : SearchStop cfg clock rate sp rj p r where
  start := (Nat.le_succ p).trans h.start
  last := h.last
  passed := fun q hq hlt => by
    rcases hq.eq_or_lt with rfl | hq
    · exact ⟨hfit, hb⟩
    · exact h.passed q hq hlt
  fit := h.fit
  noFit := h.noFit

/-- A search ends with a candidate that fits, no fallback, or with a fallback. -/
theorem result_cases (h : SearchStop cfg clock rate sp rj p r) :
    (r.fb = false ∧ fits cfg sp rj (quantaPerBit clock rate r.presc) ∧
      r = fitted cfg sp rj r.presc (quantaPerBit clock rate r.presc)) ∨
    (r.fb = true ∧ r = fallback cfg r.presc (quantaPerBit clock rate r.presc)) := by
  by_cases hfit : fits cfg sp rj (quantaPerBit clock rate r.presc)
  · exact .inl ⟨congrArg BitTiming.fb (h.fit hfit), hfit, h.fit hfit⟩
  · exact .inr ⟨congrArg BitTiming.fb (h.noFit hfit).2, (h.noFit hfit).2⟩

end SearchStop

/-- A search with fuel up to `PRESC_MAX` ends by R227, never for want of fuel. -/
theorem search_stop {cfg : Cfg} {clock rate sp rj fuel p : Nat} (h : p + fuel = cfg.prescMax) :
    SearchStop cfg clock rate sp rj p (search cfg clock rate sp rj fuel p) := by
  induction fuel generalizing p with
  | zero =>
    rw [search]
    split_ifs with hfit hstop
    · exact .of_fits h.le hfit
    · exact .of_stop h.le hfit hstop
    · exact absurd (.inr h) hstop
  | succ fuel ih =>
    rw [search]
    split_ifs with hfit hstop
    · exact .of_fits (by omega) hfit
    · exact .of_stop (by omega) hfit hstop
    · exact .of_next hfit (Nat.not_lt.mp fun hb => hstop (.inl hb)) (ih (by omega))

theorem solve_stop {cfg : Cfg} (clock rate sp rj : Nat) (h : 1 ≤ cfg.prescMax) :
    SearchStop cfg clock rate (condSp sp) (condRj cfg rj) 1 (solve cfg clock rate sp rj) :=
  search_stop (by omega)

/-! Candidates and fallbacks. -/

theorem fits_iff {cfg : Cfg} {sp rj b : Nat} :
    fits cfg sp rj b ↔
      1 ≤ candSeg1 cfg sp b ∧ candSeg1 cfg sp b ≤ cfg.seg1Max ∧ candSeg2 sp b ≤ cfg.seg2Max ∧
        candSjw rj b ≤ cfg.sjwMax := by
  simp [fits, and_assoc]

theorem syncQuanta_cast (cfg : Cfg) : (syncQuanta cfg : Int) = if cfg.syncInSeg1 then 0 else 1 :=
  apply_ite ..

/-- `seg1` of R228, in natural numbers. -/
theorem fallback_seg1 (cfg : Cfg) (p b : Nat) :
    (fallback cfg p b).seg1 = min (max 1 (b - syncQuanta cfg - max 1 (b / 8))) cfg.seg1Max := by
  simp only [fallback]
  omega

/-- Settles O51: `solve_stop`, with the formulas of R222 to R225 and R228 written out. -/
theorem solverSearchStopsFirst : Obligations.SolverSearchStopsFirst := by
  intro cfg clock rate sp rj r b seg2 sjw seg1 fit hmax hr hb hseg2 hsjw hseg1 hfit
  obtain rfl : b = quantaPerBit clock rate := funext hb
  obtain rfl : seg2 = fun p => candSeg2 (condSp sp) (quantaPerBit clock rate p) := funext hseg2
  obtain rfl : sjw = fun p => candSjw (condRj cfg rj) (quantaPerBit clock rate p) := funext hsjw
  obtain rfl : seg1 = fun p => candSeg1 cfg (condSp sp) (quantaPerBit clock rate p) := by
    funext p
    rw [hseg1, candSeg1, syncQuanta_cast]
  have hfits : ∀ p, fit p ↔ fits cfg (condSp sp) (condRj cfg rj) (quantaPerBit clock rate p) := fun p =>
    (hfit p).trans fits_iff.symm
  obtain ⟨hstart, hlast, hpassed, hfitted, hfallback⟩ := hr ▸ solve_stop clock rate sp rj hmax
  refine ⟨⟨hstart, hlast⟩, fun p hp hlt => by simpa [hfits] using hpassed p hp hlt, fun h => ?_, fun h => ?_⟩
  · obtain ⟨hlow, -⟩ := (hfit r.presc).mp h
    have hres := hfitted ((hfits _).mp h)
    refine ⟨congrArg BitTiming.fb hres, ?_, congrArg BitTiming.seg2 hres, ?_⟩
    · rw [congrArg BitTiming.seg1 hres]
      exact Int.toNat_of_nonneg (zero_le_one.trans hlow)
    · rw [congrArg BitTiming.seg1 hres, congrArg BitTiming.seg2 hres]
      exact congrArg BitTiming.sjw hres
  · obtain ⟨hstop, hres⟩ := hfallback (mt (hfits _).mpr h)
    refine ⟨congrArg BitTiming.fb hres, hstop, congrArg BitTiming.seg2 hres,
      (congrArg BitTiming.seg1 hres).trans (fallback_seg1 ..), ?_⟩
    rw [congrArg BitTiming.seg1 hres, congrArg BitTiming.seg2 hres]
    exact congrArg BitTiming.sjw hres

/-! The ranges (R232). -/

/-- The ranges of R232. -/
structure BitTiming.InBounds (cfg : Cfg) (t : BitTiming) : Prop where
  seg1_pos : 1 ≤ t.seg1
  seg1_max : t.seg1 ≤ cfg.seg1Max
  seg2_pos : 1 ≤ t.seg2
  seg2_max : t.seg2 ≤ cfg.seg2Max
  sjw_pos : 1 ≤ t.sjw
  sjw_seg1 : t.sjw ≤ t.seg1
  sjw_seg2 : t.sjw ≤ t.seg2
  sjw_max : t.sjw ≤ cfg.sjwMax

theorem fitted_inBounds {cfg : Cfg} {sp rj b : Nat} (p : Nat) (h : fits cfg sp rj b) :
    (fitted cfg sp rj p b).InBounds cfg := by
  obtain ⟨hlow, hseg1, hseg2, hsjw⟩ := fits_iff.mp h
  have h2 : 1 ≤ candSeg2 sp b := le_max_left ..
  have hj : 1 ≤ candSjw rj b := le_max_left ..
  constructor <;> simp only [fitted] <;> omega

/-- The sum invariant of a candidate that fits (R232). -/
theorem fitted_sum {cfg : Cfg} {sp rj b : Nat} (p : Nat) (h : fits cfg sp rj b) :
    syncQuanta cfg + (fitted cfg sp rj p b).seg1 + (fitted cfg sp rj p b).seg2 = b := by
  obtain ⟨hlow, -⟩ := fits_iff.mp h
  simp only [fitted]
  rw [candSeg1] at hlow ⊢
  omega

theorem fallback_inBounds {cfg : Cfg} (p b : Nat) (h1 : 1 ≤ cfg.seg1Max) (h2 : 1 ≤ cfg.seg2Max) (hj : 1 ≤ cfg.sjwMax) :
    (fallback cfg p b).InBounds cfg := by
  constructor <;> simp only [fallback] <;> omega

/-- When a fallback meets the sum invariant (R232): a `seg1` raised to 1 means fewer than eight quanta, where `seg2` is 1,
so that no two clamps make up for each other. -/
theorem fallback_sum_iff {cfg : Cfg} (p b : Nat) (h1 : 1 ≤ cfg.seg1Max) (h2 : 1 ≤ cfg.seg2Max) :
    syncQuanta cfg + (fallback cfg p b).seg1 + (fallback cfg p b).seg2 = b ↔
      syncQuanta cfg + max 1 (b / 8) + 1 ≤ b ∧ b - syncQuanta cfg - max 1 (b / 8) ≤ cfg.seg1Max ∧
        max 1 (b / 8) ≤ cfg.seg2Max := by
  have hsync : syncQuanta cfg ≤ 1 := by
    rw [syncQuanta]
    split <;> omega
  rw [fallback_seg1, show (fallback cfg p b).seg2 = min (max 1 (b / 8)) cfg.seg2Max from rfl]
  omega

/-- Settles O50: a result is a candidate that fits or a fallback, and each lies in the ranges. -/
theorem solverResultsAreInBounds : Obligations.SolverResultsAreInBounds := by
  rintro cfg clock rate sp rj r b hv hr rfl
  obtain ⟨h1, h2, hj, hp⟩ : 1 ≤ cfg.seg1Max ∧ 1 ≤ cfg.seg2Max ∧ 1 ≤ cfg.sjwMax ∧ 1 ≤ cfg.prescMax := by
    simp only [Cfg.valid, Cfg.rangesValid, Bool.and_eq_true, decide_eq_true_eq] at hv
    omega
  have hstop := hr ▸ solve_stop clock rate sp rj hp
  have hcases := hstop.result_cases
  have hin : r.InBounds cfg := by
    rcases hcases with ⟨-, hfit, hres⟩ | ⟨-, hres⟩ <;> rw [hres]
    · exact fitted_inBounds _ hfit
    · exact fallback_inBounds _ _ h1 h2 hj
  refine ⟨hstop.start, hstop.last, hin.seg1_pos, hin.seg1_max, hin.seg2_pos, hin.seg2_max, hin.sjw_pos, hin.sjw_seg1,
    hin.sjw_seg2, hin.sjw_max, fun hfb => ?_, fun hfb => ?_⟩
  · obtain ⟨-, hfit, hres⟩ := hcases.resolve_right (by simp [hfb])
    rw [hres]
    exact fitted_sum _ hfit
  · obtain ⟨-, hres⟩ := hcases.resolve_left (by simp [hfb])
    rw [hres]
    exact fallback_sum_iff _ _ h1 h2

end Sys2Proof.Machine
end

section
/-! PROOF. SOLVE and SETSPEED (`41_bit_timing.md` R226, R230, R231). Their steps are their rules; SETSPEED as a whole is
followed through its six steps, each of which changes the registers, the bound controller or the frame of the state it
started from. -/

namespace Sys2Proof.Machine

/-! Step by step. -/

/-- Settles O25: the rule for SOLVE's one label is the step. -/
theorem solveWritesItsResult : Obligations.SolveWritesItsResult := by
  rintro s c f _ h rfl
  exact withFrame_at _ h

/-- Settles O26: the rule for each label is the step; `BTR` takes its value by `withFrame_configWrite`, and the last step
depends on what was latched at the first. -/
theorem setspeedSteps : Obligations.SetspeedSteps := by
  rintro s c f _ rfl
  have hlast (h : s.At c f .setspeedS5) : exec .setspeed s = .next ((if f.loc.was then en1 s else s).ended c f .ok) :=
    withFrame_at _ h
  refine ⟨withFrame_at _, withFrame_at _, withFrame_at _, withFrame_at _, fun h hinit hcce => ?_, fun h hwas => ?_,
    fun h hwas => ?_⟩
  · exact withFrame_configWrite (by rw [Ctrl.configMode, hinit, hcce]; rfl) h
  · rw [hlast h, hwas]
    rfl
  · rw [hlast h, hwas]
    rfl

/-! A command of the FG port alone on the machine. -/

theorem ended_ctrl (s : State) (c : Ctx) (f : Frame) (e : ResultCode) : (s.ended c f e).ctrl = s.ctrl := ctrl_setPort ..

theorem ended_ctrlAt (s : State) (c : Ctx) (f : Frame) (e : ResultCode) (d : BitVec 8) :
    (s.ended c f e).ctrlAt d = s.ctrlAt d := by cases c <;> rfl

/-- `s` in the middle of a command of its FG port: what such a command has put into the registers, the bound controller and
the frame. -/
def State.midway (s : State) (r : HostRegs) (k : Ctrl) (f : Frame) : State :=
  ((s.setRegs r).setCtrlAt s.regs.cstate.dev k).setPort .fg { s.fgPort with frame := some f }

section

variable {s : State} {r : HostRegs} {k k' : Ctrl} {f : Frame}

theorem midway_self (h : s.fgPort.frame = some f) : s.midway s.regs s.ctrl f = s := by
  rw [State.midway, State.ctrl, show s.setRegs s.regs = s from rfl, setCtrlAt_ctrlAt]
  exact congrArg (s.setPort .fg) (show { s.fgPort with frame := some f } = s.fgPort by rw [← h])

theorem midway_ctrl (h : r.cstate.dev = s.regs.cstate.dev) : (s.midway r k f).ctrl = k := by
  rw [State.ctrl, show (s.midway r k f).regs.cstate.dev = s.regs.cstate.dev from h]
  exact ctrlAt_setCtrlAt_same (s.setRegs r) _ k

theorem midway_ctrlAt_other {d : BitVec 8} (h : d ≠ s.regs.cstate.dev) : (s.midway r k f).ctrlAt d = s.ctrlAt d :=
  ctrlAt_setCtrlAt_other (s.setRegs r) k h

/-- A write to the bound controller in the middle of a command replaces the one before it. -/
theorem midway_setCtrl (h : r.cstate.dev = s.regs.cstate.dev) : (s.midway r k f).setCtrl k' = s.midway r k' f := by
  have hdev : (s.midway r k f).regs.cstate.dev = s.regs.cstate.dev := h
  rw [State.setCtrl, hdev]
  exact congrArg (fun ctrls => { s.midway r k f with ctrls := ctrls }) (Vector.set_set ..)

theorem midway_at (h : s.isPort.frame = none) : (s.midway r k f).At .fg f f.seq := ⟨current_fg h rfl, rfl⟩

/-- With no other agent moving, each step of the command is the next step of the system. -/
theorem runSteps_midway {i : Instr} {t : State} (h : s.Fresh i) (hexec : exec f.op (s.midway r k f) = .next t) (n : Nat) :
    runSteps (n + 1) (s.midway r k f) = runSteps n t := by
  refine runSteps_succ ?_ n
  rw [step_quiet (s := s.midway r k f) h.validCfg h.quiet, sequencerStep_current (midway_at h.noIs).1, hexec]

end

/-! SETSPEED as a whole (R230). -/

/-- The frame of a SETSPEED at a label, with what its first step latches. -/
def setspeedFrame (was : Bool) (l : Label) : Frame :=
  { Frame.start .setspeed with loc := { Locals.empty with was := was }, seq := l }

/-- The registers under the new timing (R231), with this lifecycle state. -/
def retimedRegs (s : State) (enabled : Bool) : HostRegs :=
  { storeTiming (solveRegs s.cfg s.regs) { s.regs with cstate := { s.regs.cstate with enabled := enabled } } with
    cpb := cpbOf s.cfg s.regs.pRate }

theorem retimedRegs_dev (s : State) (enabled : Bool) : (retimedRegs s enabled).cstate.dev = s.regs.cstate.dev := rfl

/-- The bound controller after a `MODE` write with `init = 1`. -/
def offBusCtrl (s : State) (cce : Bool) : Ctrl :=
  { s.ctrl with mode := { init := true, cce := cce, fd := false }, rxHeld := [] }

/-- An undisturbed SETSPEED up to its last step. -/
theorem setspeed_before_last {s : State} {was : Bool} (h : s.Fresh .setspeed) (hwas : s.regs.cstate.enabled = was) :
    runSteps 6 s = runSteps 1
      (s.midway (retimedRegs s false) { offBusCtrl s true with btr := btrOf (retimedRegs s false) }
        (setspeedFrame was .setspeedS5)) := by
  have steps (r k f) (hdev : r.cstate.dev = s.regs.cstate.dev) :=
    setspeedSteps (s.midway r k f) .fg f k (midway_ctrl hdev).symm
  calc runSteps 6 s
    _ = runSteps 6 (s.midway s.regs s.ctrl (Frame.start .setspeed)) := by rw [midway_self h.started]
    _ = runSteps 5 (s.midway s.regs s.ctrl (setspeedFrame was .setspeedS1)) := by
      obtain ⟨hstep, -⟩ := steps s.regs s.ctrl (Frame.start .setspeed) rfl
      rw [← hwas]
      exact runSteps_midway h (hstep (midway_at h.noIs)) 5
    _ = runSteps 4 (s.midway s.regs (offBusCtrl s false) (setspeedFrame was .setspeedS2)) := by
      obtain ⟨-, hstep, -⟩ := steps s.regs s.ctrl (setspeedFrame was .setspeedS1) rfl
      rw [runSteps_midway h (hstep (midway_at h.noIs)), midway_setCtrl rfl]
      rfl
    _ = runSteps 3 (s.midway s.regs (offBusCtrl s true) (setspeedFrame was .setspeedS3)) := by
      obtain ⟨-, -, hstep, -⟩ := steps s.regs (offBusCtrl s false) (setspeedFrame was .setspeedS2) rfl
      rw [runSteps_midway h (hstep (midway_at h.noIs)), midway_setCtrl rfl]
      rfl
    _ = runSteps 2 (s.midway (retimedRegs s false) (offBusCtrl s true) (setspeedFrame was .setspeedS4)) := by
      obtain ⟨-, -, -, hstep, -⟩ := steps s.regs (offBusCtrl s true) (setspeedFrame was .setspeedS3) rfl
      exact runSteps_midway h (hstep (midway_at h.noIs)) 2
    _ = _ := by
      obtain ⟨-, -, -, -, hstep, -⟩ :=
        steps (retimedRegs s false) (offBusCtrl s true) (setspeedFrame was .setspeedS4) (retimedRegs_dev s false)
      rw [runSteps_midway h (hstep (midway_at h.noIs) rfl rfl), midway_setCtrl (retimedRegs_dev s false)]
      rfl

/-- The last step of an undisturbed SETSPEED: back on the bus if it started enabled. -/
theorem setspeed_last {s : State} (h : s.Fresh .setspeed) (k : Ctrl) (was : Bool) :
    runSteps 1 (s.midway (retimedRegs s false) k (setspeedFrame was .setspeedS5)) = .next
      ((s.midway (retimedRegs s was)
        { k with mode := if was then { init := false, cce := false, fd := false } else k.mode }
        (setspeedFrame was .setspeedS5)).ended .fg (setspeedFrame was .setspeedS5) .ok) := by
  obtain ⟨-, -, -, -, -, hidle, hon⟩ := setspeedSteps
    (s.midway (retimedRegs s false) k (setspeedFrame was .setspeedS5)) .fg (setspeedFrame was .setspeedS5) k
    (midway_ctrl (retimedRegs_dev s false)).symm
  cases was with
  | false => exact runSteps_midway h (hidle (midway_at h.noIs) rfl) 0
  | true =>
    rw [runSteps_midway h (hon (midway_at h.noIs) rfl), midway_setCtrl (retimedRegs_dev s false)]
    rfl

/-- Settles O39: `setspeed_before_last`, then `setspeed_last`. -/
theorem setspeedReprogramsTheTiming : Obligations.SetspeedReprogramsTheTiming := by
  intro s h
  exact ⟨_, (setspeed_before_last h rfl).trans (setspeed_last h _ _), rfl, rfl, rfl,
    (ended_ctrl ..).trans (midway_ctrl (retimedRegs_dev s _)),
    fun d hd => (ended_ctrlAt ..).trans (midway_ctrlAt_other hd), fun _ => rfl, rfl, rfl, rfl⟩

end Sys2Proof.Machine
end

section
/-! PROOF. ACLR and AADD (`42_filters.md`). Their steps are their rules. ACLR as a whole is followed through its loop over the
filter words, AADD through its two steps; what the controller then admits is read off the filter words (`20_memory.md`
R142). -/

namespace Sys2Proof.Machine

/-! Step by step. -/

/-- Settles O27: the rule for each label is the step; where a step depends on what was latched at the first one, or on the
loop being at its first word, the two branches are taken apart. -/
theorem aclrSteps : Obligations.AclrSteps := by
  rintro s c f _ rfl
  refine ⟨withFrame_at _, withFrame_at _, withFrame_at _, fun j h => ?_, fun h hwas => ?_, fun h hwas => ?_,
    withFrame_at _⟩
  · have hloop : exec .aclr s = .next
        ((zeroFilterWord j (if j = 0 ∧ f.loc.was = true then clearEnabled s else s)).moved c f
          (if j + 1 < s.cfg.maxf then .aclrS3 (j + 1) else .aclrS4)) := withFrame_at _ h
    rw [hloop]
    split <;> rfl
  all_goals
    have hlast : exec .aclr s = .next
        (if f.loc.was then (s.setRegs { s.regs with fcount := 0 }).moved c f .aclrS5
          else (s.setRegs { s.regs with fcount := 0 }).ended c f .ok) := withFrame_at _ h
    rw [hlast, hwas]
    rfl

/-- The two branches of AADD's check (R254, R255). -/
theorem aadd_check {s : State} {c : Ctx} {f : Frame} (id mask : BitVec 11) (h : s.At c f .aaddS0) :
    exec (.aadd id mask) s =
      .next (if s.cfg.maxf ≤ s.regs.fcount.toNat then s.ended c f .ok else s.moved c f .aaddS1) :=
  withFrame_at _ h

/-- Settles O28: the branch of the check that ends the frame. -/
theorem aaddOnAFullTableIsIgnored : Obligations.AaddOnAFullTableIsIgnored := by
  intro s c f id mask h hfull
  rw [aadd_check id mask h, if_pos hfull]

/-- Settles O29: the branch of the check that goes on, and the rule for the step that stores. -/
theorem aaddAppendsAFilter : Obligations.AaddAppendsAFilter := by
  intro s c f id mask
  refine ⟨fun h hroom => ?_, withFrame_at _⟩
  rw [aadd_check id mask h, if_neg (Nat.not_le.mpr hroom)]

end Sys2Proof.Machine

/-! The filter zone with its first words zeroed (R251). Words that overlap do no harm, so nothing is asked of `FLT_SZ`. -/

namespace Sys2Proof

/-- Every byte of a word that zero is stored to reads 0. -/
theorem Memory.load_storeWord_zero {m : Memory} {a x : Nat} (hm : wf m = true) (h : ¬ Machine.outsideWord a x) :
    (m.storeWord a 0).load x = 0 := by
  have hbyte (k : Nat) : Machine.byteOf 0 k = 0 := by simp [Machine.byteOf]
  have hx : x = a + 3 ∨ x = a + 2 ∨ x = a + 1 ∨ x = a := by
    unfold Machine.outsideWord at h
    omega
  rw [load_storeWord a 0 x hm]
  rcases hx with rfl | rfl | rfl | rfl <;> simpa using hbyte _

/-- The memory after `ZF.0` to `ZF.(n-1)` (R251). -/
def Cfg.zeroFilters (cfg : Cfg) (m : Memory) : Nat → Memory
  | 0 => m
  | n + 1 => (cfg.zeroFilters m n).storeWord (cfg.fltWord n) 0

namespace Cfg

variable {cfg : Cfg} {m : Memory} (hm : Memory.wf m = true)
include hm

theorem zeroFilters_wf (n : Nat) : Memory.wf (cfg.zeroFilters m n) = true := by
  induction n with
  | zero => exact hm
  | succ n ih => exact Memory.storeWord_wf _ _ ih

theorem load_zeroFilters_outside {n x : Nat} (h : ∀ j < n, Machine.outsideWord (cfg.fltWord j) x) :
    (cfg.zeroFilters m n).load x = m.load x := by
  induction n with
  | zero => rfl
  | succ n ih =>
    exact (Memory.load_storeWord_outside 0 (zeroFilters_wf hm n) (h n n.lt_succ_self)).trans
      (ih fun j hj => h j (Nat.lt_succ_of_lt hj))

theorem load_zeroFilters_inside {n j x : Nat} (hj : j < n) (h : ¬ Machine.outsideWord (cfg.fltWord j) x) :
    (cfg.zeroFilters m n).load x = 0 := by
  induction n with
  | zero => omega
  | succ n ih =>
    by_cases hout : Machine.outsideWord (cfg.fltWord n) x
    · have hne : j ≠ n := fun he => h (he ▸ hout)
      exact (Memory.load_storeWord_outside 0 (zeroFilters_wf hm n) hout).trans (ih (by omega))
    · exact Memory.load_storeWord_zero (zeroFilters_wf hm n) hout

theorem loadWord_zeroFilters {n j : Nat} (hj : j < n) : (cfg.zeroFilters m n).loadWord (cfg.fltWord j) = 0 := by
  have hbyte (i : Nat) (hi : i < 4) : (cfg.zeroFilters m n).load (cfg.fltWord j + i) = 0 :=
    load_zeroFilters_inside hm hj (by unfold Machine.outsideWord; omega)
  rw [Memory.loadWord, ← Nat.add_zero (cfg.fltWord j), hbyte 0, hbyte 1, hbyte 2, hbyte 3] <;> decide

end Cfg

end Sys2Proof

namespace Sys2Proof.Machine

/-! What a controller admits (`20_memory.md` R142). -/

/-- A controller whose `FLTC` is as INIT writes it admits what one of the words of the filter zone admits. -/
theorem anyFilterMatches_iff {cfg : Cfg} {k : Ctrl} (hv : cfg.valid = true)
    (hf : k.fltc = { base := BitVec.ofNat 16 cfg.offFlt, count := cfg.maxf }) (mem : Memory) (rid : BitVec 11) :
    anyFilterMatches cfg mem k rid = true ↔
      ∃ n < cfg.maxf, filterMatches cfg.pack (mem.loadWord (cfg.fltWord n)) rid = true := by
  simp [anyFilterMatches, hf, base_toNat hv, Cfg.fltWord]

/-- The zero word is a disabled entry (R114). -/
theorem filterMatches_zero {p : Pack} (h : packsMessages p) (rid : BitVec 11) : filterMatches p 0 rid = false := by
  have haction := unpackFlt_zero h
  rw [filterMatches, haction, show (FilterAction.disabled == .toRx) = false from rfl, Bool.and_false, Bool.false_and]

/-- The word AADD writes admits what its mask admits (R257). -/
theorem filterMatches_aaddWord {cfg : Cfg} (hv : cfg.valid = true) (id mask rid : BitVec 11) :
    filterMatches cfg.pack (aaddWord cfg id mask) rid = decide (rid &&& mask = id &&& mask) := by
  rw [filterMatches, aaddWord, unpackFlt_packFlt (packsMessages_of_valid hv)]
  rfl

/-! ACLR as a whole (R252, R253). -/

theorem State.Fresh.setMem {s : State} {i : Instr} (h : s.Fresh i) (m : Memory) : (s.setMem m).Fresh i :=
  ⟨h.validCfg, h.quiet, h.noIs, h.started⟩

/-- The frame of an ACLR at a label, with what its first step latches. -/
def aclrFrame (was : Bool) (l : Label) : Frame :=
  { Frame.start .aclr with loc := { Locals.empty with was := was }, seq := l }

/-- The registers while ACLR runs, before it clears `FCOUNT`. -/
def aclrRegs (s : State) (enabled : Bool) : HostRegs := { s.regs with cstate := { s.regs.cstate with enabled := enabled } }

/-- The bound controller when ACLR enters its loop: off the bus if `enabled` was set. -/
def aclrCtrl (s : State) (was : Bool) : Ctrl := if was then offBusCtrl s true else s.ctrl

/-- `s` in the middle of an ACLR, the first `n` filter words zeroed. -/
def aclrState (s : State) (n : Nat) (r : HostRegs) (k : Ctrl) (was : Bool) (l : Label) : State :=
  (s.setMem (s.cfg.zeroFilters s.mem n)).midway r k (aclrFrame was l)

/-- `s` after an ACLR. -/
def aclrDone (s : State) (was : Bool) : State :=
  (aclrState s s.cfg.maxf { aclrRegs s was with fcount := 0 }
    { s.ctrl with rxHeld := if was then [] else s.ctrl.rxHeld } was .aclrS4).ended .fg (Frame.start .aclr) .ok

section

variable {s : State} {n : Nat} {r : HostRegs} {k : Ctrl} {was : Bool} {l : Label}

theorem aclrState_ctrl (hdev : r.cstate.dev = s.regs.cstate.dev) : (aclrState s n r k was l).ctrl = k :=
  midway_ctrl (s := s.setMem _) hdev

theorem aclrState_setCtrl {k' : Ctrl} (hdev : r.cstate.dev = s.regs.cstate.dev) :
    (aclrState s n r k was l).setCtrl k' = aclrState s n r k' was l := midway_setCtrl (s := s.setMem _) hdev

variable (h : s.Fresh .aclr)
include h

theorem aclrState_at : (aclrState s n r k was l).At .fg (aclrFrame was l) l := midway_at h.noIs

theorem runSteps_aclrState {t : State} (hexec : exec .aclr (aclrState s n r k was l) = .next t) (m : Nat) :
    runSteps (m + 1) (aclrState s n r k was l) = runSteps m t := runSteps_midway (h.setMem _) hexec m

/-- The first step of ACLR. -/
theorem aclr_latch (hwas : s.regs.cstate.enabled = was) (m : Nat) :
    runSteps (m + 1) s =
      runSteps m (aclrState s 0 (aclrRegs s was) s.ctrl was (if was then .aclrS1 else .aclrS3 0)) := by
  obtain ⟨hlatch, -⟩ := aclrSteps (s.midway s.regs s.ctrl (Frame.start .aclr)) .fg (Frame.start .aclr) _ rfl
  calc runSteps (m + 1) s
    _ = runSteps (m + 1) (s.midway s.regs s.ctrl (Frame.start .aclr)) := by rw [midway_self h.started]
    _ = _ := by
      rw [← hwas]
      exact runSteps_midway h (hlatch (midway_at h.noIs)) m

/-- The steps of ACLR before its loop. -/
theorem aclr_toLoop (hwas : s.regs.cstate.enabled = was) (m : Nat) :
    runSteps (m + if was then 3 else 1) s =
      runSteps m (aclrState s 0 (aclrRegs s was) (aclrCtrl s was) was (.aclrS3 0)) := by
  have steps (l k) := aclrSteps (aclrState s 0 (aclrRegs s true) k true l) .fg (aclrFrame true l) k
    (.symm (aclrState_ctrl rfl))
  cases was with
  | false => exact aclr_latch h hwas m
  | true =>
    calc runSteps (m + 3) s
      _ = runSteps (m + 2) (aclrState s 0 (aclrRegs s true) s.ctrl true .aclrS1) := aclr_latch h hwas (m + 2)
      _ = runSteps (m + 1) (aclrState s 0 (aclrRegs s true) (offBusCtrl s false) true .aclrS2) := by
        obtain ⟨-, hstep, -⟩ := steps .aclrS1 s.ctrl
        rw [runSteps_aclrState h (hstep (aclrState_at h)), aclrState_setCtrl] <;> rfl
      _ = runSteps m (aclrState s 0 (aclrRegs s true) (offBusCtrl s true) true (.aclrS3 0)) := by
        obtain ⟨-, -, hstep, -⟩ := steps .aclrS2 (offBusCtrl s false)
        rw [runSteps_aclrState h (hstep (aclrState_at h)), aclrState_setCtrl] <;> rfl

/-- A turn of the loop zeroes the next word; the first one clears `enabled`. -/
theorem aclrLoop_turn (enabled : Bool) (m : Nat) :
    runSteps (m + 1) (aclrState s n (aclrRegs s enabled) k was (.aclrS3 n)) = runSteps m
      (aclrState s (n + 1) (aclrRegs s (if n = 0 ∧ was = true then false else enabled)) k was
        (if n + 1 < s.cfg.maxf then .aclrS3 (n + 1) else .aclrS4)) := by
  obtain ⟨-, -, -, hstep, -⟩ :=
    aclrSteps (aclrState s n (aclrRegs s enabled) k was (.aclrS3 n)) .fg (aclrFrame was (.aclrS3 n)) _ rfl
  exact runSteps_aclrState h (hstep n (aclrState_at h)) m

theorem aclrLoop_turns (hn : n < s.cfg.maxf) (m : Nat) :
    runSteps (m + (n + 1)) (aclrState s 0 (aclrRegs s was) k was (.aclrS3 0)) = runSteps m
      (aclrState s (n + 1) (aclrRegs s false) k was (if n + 1 < s.cfg.maxf then .aclrS3 (n + 1) else .aclrS4)) := by
  induction n generalizing m with
  | zero =>
    rw [aclrLoop_turn h]
    cases was <;> rfl
  | succ n ih =>
    rw [show m + (n + 1 + 1) = m + 1 + (n + 1) by omega, ih (by omega), if_pos hn, aclrLoop_turn h, ite_self]

/-- The loop as a whole. -/
theorem aclrLoop_run (m : Nat) :
    runSteps (m + s.cfg.maxf) (aclrState s 0 (aclrRegs s was) k was (.aclrS3 0)) =
      runSteps m (aclrState s s.cfg.maxf (aclrRegs s false) k was .aclrS4) := by
  have hmaxf : 1 ≤ s.cfg.maxf := by
    have hv := h.validCfg
    simp only [Cfg.valid, Cfg.rangesValid, Bool.and_eq_true, decide_eq_true_eq] at hv
    omega
  have hlast := aclrLoop_turns (k := k) (was := was) h (Nat.sub_lt hmaxf one_pos) m
  rwa [Nat.sub_add_cancel hmaxf, if_neg (lt_irrefl _)] at hlast

/-- The steps of ACLR after its loop: back on the bus if `enabled` was set. -/
theorem aclr_fromLoop (hmode : was = true → s.ctrl.mode = { init := false, cce := false, fd := false }) :
    runSteps (if was then 2 else 1) (aclrState s s.cfg.maxf (aclrRegs s false) (aclrCtrl s was) was .aclrS4) =
      .next (aclrDone s was) := by
  obtain ⟨-, -, -, -, hcount, hidle, -⟩ :=
    aclrSteps (aclrState s s.cfg.maxf (aclrRegs s false) (aclrCtrl s was) was .aclrS4) .fg (aclrFrame was .aclrS4) _ rfl
  cases was with
  | false => exact runSteps_aclrState h (hidle (aclrState_at h) rfl) 0
  | true =>
    have hback : { offBusCtrl s true with mode := { init := false, cce := false, fd := false } } =
        { s.ctrl with rxHeld := [] } := by
      rw [← hmode rfl]
      rfl
    obtain ⟨-, -, -, -, -, -, hlast⟩ :=
      aclrSteps (aclrState s s.cfg.maxf { aclrRegs s false with fcount := 0 } (offBusCtrl s true) true .aclrS5) .fg
        (aclrFrame true .aclrS5) (offBusCtrl s true) (.symm (aclrState_ctrl rfl))
    calc _
      _ = runSteps 1 (aclrState s s.cfg.maxf { aclrRegs s false with fcount := 0 } (offBusCtrl s true) true .aclrS5) :=
        runSteps_aclrState h (hcount (aclrState_at h) rfl) 1
      _ = .next (aclrDone s true) := by
        rw [runSteps_aclrState h (hlast (aclrState_at h)), aclrState_setCtrl, hback] <;> rfl

/-- ACLR from its first step to its last. -/
theorem aclr_run (hwas : s.regs.cstate.enabled = was)
    (hmode : was = true → s.ctrl.mode = { init := false, cce := false, fd := false }) :
    runSteps (if was then s.cfg.maxf + 5 else s.cfg.maxf + 2) s = .next (aclrDone s was) := by
  rw [← aclr_fromLoop h hmode, ← aclrLoop_run h, ← aclr_toLoop h hwas]
  congr 1
  split <;> omega

end

/-- Settles O38: `aclr_run`; the controller then finds only disabled entries. -/
theorem aclrClearsTheTable : Obligations.AclrClearsTheTable := by
  intro s h hm hmode
  have hcleared : (aclrDone s s.regs.cstate.enabled).zoneCleared := fun j hj => Cfg.loadWord_zeroFilters hm hj
  refine ⟨_, aclr_run h rfl hmode, rfl, rfl, rfl, fun d hd => (ended_ctrlAt ..).trans (midway_ctrlAt_other hd),
    (ended_ctrl ..).trans (aclrState_ctrl rfl), hcleared, fun x hx => Cfg.load_zeroFilters_outside hm hx,
    fun hp rid => ?_, rfl, rfl, rfl⟩
  refine Bool.eq_false_iff.mpr fun hadmits => ?_
  obtain ⟨n, hn, hmatch⟩ := (anyFilterMatches_iff h.validCfg hp.fltc _ rid).mp hadmits
  have hdisabled := filterMatches_zero (packsMessages_of_valid h.validCfg) rid
  rw [← hcleared n hn] at hdisabled
  exact Bool.false_ne_true (hdisabled.symm.trans hmatch)

/-! AADD as a whole (R254, R257). -/

/-- `s` after an AADD that found room. -/
def aaddDone (s : State) (id mask : BitVec 11) : State :=
  ((memWrite s (s.cfg.fltWord s.regs.fcount.toNat) (aaddWord s.cfg id mask)).setRegs
    { s.regs with fcount := s.regs.fcount + 1 }).ended .fg (Frame.start (.aadd id mask)) .ok

theorem aadd_run {s : State} {id mask : BitVec 11} (h : s.Fresh (.aadd id mask))
    (hroom : s.regs.fcount.toNat < s.cfg.maxf) : runSteps 2 s = .next (aaddDone s id mask) := by
  have hself := midway_self h.started
  obtain ⟨hcheck, -⟩ := aaddAppendsAFilter (s.midway s.regs s.ctrl (Frame.start (.aadd id mask))) .fg
    (Frame.start (.aadd id mask)) id mask
  obtain ⟨-, hstore⟩ := aaddAppendsAFilter
    (s.midway s.regs s.ctrl { Frame.start (.aadd id mask) with seq := .aaddS1 }) .fg
    { Frame.start (.aadd id mask) with seq := .aaddS1 } id mask
  calc runSteps 2 s
    _ = runSteps 2 (s.midway s.regs s.ctrl (Frame.start (.aadd id mask))) := by rw [hself]
    _ = runSteps 1 (s.midway s.regs s.ctrl { Frame.start (.aadd id mask) with seq := .aaddS1 }) :=
      runSteps_midway h (hcheck (midway_at h.noIs) hroom) 1
    _ = _ := runSteps_midway h (hstore (midway_at h.noIs)) 0
    _ = .next (aaddDone (s.midway s.regs s.ctrl (Frame.start (.aadd id mask))) id mask) := rfl
    _ = .next (aaddDone s id mask) := by rw [hself]

/-- Storing one filter word leaves the others alone. -/
theorem loadWord_fltWord_storeWord {cfg : Cfg} {m : Memory} (hm : Memory.wf m = true) (hfit : cfg.elementsFit = true)
    {i j : Nat} (v : Word) (h : j ≠ i) :
    (m.storeWord (cfg.fltWord i) v).loadWord (cfg.fltWord j) = m.loadWord (cfg.fltWord j) := by
  simp only [Cfg.elementsFit, decide_eq_true_eq] at hfit
  refine Memory.loadWord_storeWord_other v hm ?_
  unfold Cfg.fltWord
  rcases Nat.lt_or_gt_of_ne h with hlt | hlt
  all_goals
    have hnext := Nat.mul_le_mul_right cfg.fltSz hlt
    rw [Nat.succ_mul] at hnext
    omega

/-- Settles O53: the word stored is the only one that changes, and it admitted nothing before. -/
theorem aaddAdmitsExactlyItsMask : Obligations.AaddAdmitsExactlyItsMask := by
  intro s id mask h hm hfit hfltc hroom hzero
  refine ⟨_, aadd_run h hroom, rfl, rfl, fun rid => ?_⟩
  have hctrl : (aaddDone s id mask).ctrl.fltc = { base := BitVec.ofNat 16 s.cfg.offFlt, count := s.cfg.maxf } := hfltc
  have hsame : Memory.loadWord (aaddDone s id mask).mem (s.cfg.fltWord s.regs.fcount.toNat) = aaddWord s.cfg id mask :=
    Memory.loadWord_storeWord_same _ _ hm
  have hother {n : Nat} (hn : n ≠ s.regs.fcount.toNat) :
      Memory.loadWord (aaddDone s id mask).mem (s.cfg.fltWord n) = Memory.loadWord s.mem (s.cfg.fltWord n) :=
    loadWord_fltWord_storeWord hm hfit _ hn
  have hnone : filterMatches s.cfg.pack (Memory.loadWord s.mem (s.cfg.fltWord s.regs.fcount.toNat)) rid = false := by
    rw [← memRead, hzero, filterMatches_zero (packsMessages_of_valid h.validCfg)]
  have hnew := filterMatches_aaddWord h.validCfg id mask rid
  rw [Bool.eq_iff_iff, Bool.or_eq_true, ← hnew, ← hsame]
  refine ((anyFilterMatches_iff h.validCfg hctrl _ rid).trans ⟨?_, ?_⟩).trans
    (or_congr_left (anyFilterMatches_iff h.validCfg hfltc _ rid).symm)
  · rintro ⟨n, hn, hmatch⟩
    by_cases hc : n = s.regs.fcount.toNat
    · exact .inr (hc ▸ hmatch)
    · exact .inl ⟨n, hn, hother hc ▸ hmatch⟩
  · rintro (⟨n, hn, hmatch⟩ | hmatch)
    · have hc : n ≠ s.regs.fcount.toNat := by
        rintro rfl
        rw [hnone] at hmatch
        cases hmatch
      exact ⟨n, hn, (hother hc).symm ▸ hmatch⟩
    · exact ⟨_, hroom, hmatch⟩

end Sys2Proof.Machine
end

section
/-! PROOF. HTX (`43_tx_engine.md`). Its steps are their rules, but for the three branches and the doorbell. A pass is followed
turn by turn: each turn moves the next message of the source into the slot `put` names, so that after `n` turns the first `n`
messages are in their slots and the ring holds their requests. -/

namespace Sys2Proof.Machine

/-! The doorbell (`20_memory.md` R136). -/

/-- The controller after a doorbell within the contract. -/
def Ctrl.rung (k : Ctrl) : Ctrl :=
  Ctrl.settled { k with txReq := k.txReq ++ [k.txPut], txPut := (k.txPut + 1) % k.txc.count }

theorem one_shiftLeft_ne_zero {n : Nat} (h : n < 32) : 1#32 <<< n ≠ 0 := by
  intro h0
  have hbit := congrArg (BitVec.getLsbD · n) h0
  simp [h] at hbit

theorem ringDoorbell_rung {s : State} (h32 : s.ctrl.txPut < 32) (hok : s.ctrl.doorbellOk (1#32 <<< s.ctrl.txPut) = true) :
    ringDoorbell s (1#32 <<< s.ctrl.txPut) = s.setCtrl s.ctrl.rung :=
  ringDoorbell_contract (one_shiftLeft_ne_zero h32) hok

/-! Step by step. -/

section

variable {s : State} {c : Ctx} {f : Frame}

/-- The test of the loop (R272 `L0`). -/
theorem htx_test (h : s.At c f .htxL0) :
    exec .htx s = .next (if hasPending s then s.moved c f .htxL1 else s.ended c f .ok) := withFrame_at _ h

theorem htx_idle (h : s.At c f .htxL0) (hempty : s.source = []) : exec .htx s = .next (s.ended c f .ok) := by
  rw [htx_test h, hasPending, hempty]
  rfl

theorem htx_pending (h : s.At c f .htxL0) (hpending : s.source ≠ []) : exec .htx s = .next (s.moved c f .htxL1) := by
  rw [htx_test h, if_pos]
  simpa [hasPending] using hpending

theorem htx_critEnter (h : s.At c f .htxL1) : exec .htx s = .next (s.moved c { f with crit := true } .htxL2) :=
  withFrame_at _ h

/-- The read of `TXS` and the test for back-pressure (R272 `L2`, R273). -/
theorem htx_status (h : s.At c f .htxL2) :
    exec .htx s = .next (s.moved c { f with loc := { f.loc with put := s.ctrl.txPut } }
      (if s.ctrl.txReq.length = s.ctrl.txc.count then .htxX1 else .htxL3)) := by
  have hstep : exec .htx s = .next
      (if s.ctrl.txReq.length == s.ctrl.txc.count then
        s.moved c { f with loc := { f.loc with put := s.ctrl.txPut } } .htxX1
      else s.moved c { f with loc := { f.loc with put := s.ctrl.txPut } } .htxL3) := withFrame_at _ h
  rw [hstep]
  by_cases hfull : s.ctrl.txReq.length = s.ctrl.txc.count <;> simp [hfull]

theorem takeOutgoing_cons {m : TxMsg} {rest : List TxMsg} (h : s.source = m :: rest) :
    takeOutgoing s = (m, { s with source := rest }) := by simp only [takeOutgoing, h]

theorem takeOutgoing_nil (h : s.source = []) : takeOutgoing s = (Config.freeMessage s.free, s.drawn) := by
  simp only [takeOutgoing, h]

/-- The take of the next message (R272 `L3`). -/
theorem htx_take (h : s.At c f .htxL3) {m : TxMsg} {t : State} (htake : takeOutgoing s = (m, t)) :
    exec .htx s = .next (t.moved c { f with loc := { f.loc with m := m } } .htxL4) := by
  have hstep : exec .htx s = .next
      ((takeOutgoing s).2.moved c { f with loc := { f.loc with m := (takeOutgoing s).1 } } .htxL4) := withFrame_at _ h
  rw [hstep, htake]

/-! The stores of the slot (R272 `L4` to `L7`, R276). -/

theorem htx_storeLow (h : s.At c f .htxL4) : exec .htx s = .next
    ((memWrite s (s.cfg.txWord f.loc.put 2) (payloadLow f.loc.m.data)).moved c f .htxL5) := withFrame_at _ h

theorem htx_storeHigh (h : s.At c f .htxL5) : exec .htx s = .next
    ((memWrite s (s.cfg.txWord f.loc.put 3) (payloadHigh f.loc.m.data)).moved c f .htxL6) := withFrame_at _ h

theorem htx_storeControl (h : s.At c f .htxL6) : exec .htx s = .next
    ((memWrite s (s.cfg.txWord f.loc.put 1) (packTxCtl s.cfg.pack (txCtlOf s.cfg f.loc.m f.loc.put))).moved c f .htxL7) :=
  withFrame_at _ h

theorem htx_storeId (h : s.At c f .htxL7) : exec .htx s = .next
    ((memWrite s (s.cfg.txWord f.loc.put 0) (packTxId s.cfg.pack (txIdOf f.loc.m))).moved c f .htxL8) := withFrame_at _ h

/-- The doorbell within the contract (R272 `L8`). -/
theorem htx_doorbell (h : s.At c f .htxL8) (hput : f.loc.put = s.ctrl.txPut) (h32 : s.ctrl.txPut < 32)
    (hok : s.ctrl.doorbellOk (1#32 <<< s.ctrl.txPut) = true) :
    exec .htx s = .next ((s.setCtrl s.ctrl.rung).moved c f .htxL9) := by
  have hstep : exec .htx s = .next ((ringDoorbell s (1#32 <<< f.loc.put)).moved c f .htxL9) := withFrame_at _ h
  rw [hstep, hput, ringDoorbell_rung h32 hok]

theorem htx_count (h : s.At c f .htxL9) :
    exec .htx s = .next (s.moved c { f with crit := false, n := f.n + 1 } .htxL0) := withFrame_at _ h

theorem htx_backPressure (h : s.At c f .htxX1) :
    exec .htx s = .next (s.ended c { f with crit := false, bp := true } .ok) := withFrame_at _ h

end

/-- Settles O30: the rules of the labels; after the doorbell `put` is what `settled` makes of it. -/
theorem htxSteps : Obligations.HtxSteps := by
  rintro s c f _ rfl
  refine ⟨withFrame_at _, htx_idle, htx_pending, htx_critEnter, fun h hfull => ?_, fun h hroom => ?_,
    fun m rest h hsource => htx_take h (takeOutgoing_cons hsource), fun h hempty => htx_take h (takeOutgoing_nil hempty),
    htx_storeLow, htx_storeHigh, htx_storeControl, htx_storeId,
    fun req h hput hlt h32 hroom hfree hreq => ?_, htx_count, htx_backPressure⟩
  · rw [htx_status h, if_pos hfull]
  · rw [htx_status h, if_neg hroom]
  · subst hreq
    have hsettled := Ctrl.settled_eq
      { s.ctrl with txReq := s.ctrl.txReq ++ [s.ctrl.txPut], txPut := (s.ctrl.txPut + 1) % s.ctrl.txc.count }
    refine ⟨s.ctrl.rung.txPut, ?_, fun hstays => ?_, fun hleft => ⟨?_, Ctrl.settled_free _ hleft⟩⟩
    · rw [htx_doorbell h hput h32 (doorbellOk_iff.mpr ⟨rfl, hlt, hroom, hfree⟩), Ctrl.rung, ← hsettled]
    · rw [Ctrl.rung, Ctrl.settled, if_neg]
      rintro ⟨hleft, htaken⟩
      exact hstays.elim (· htaken) hleft.ne
    · exact Ctrl.settled_txPut_lt le_rfl (Nat.mod_lt _ (by omega))

end Sys2Proof.Machine

/-! A message in a TX slot (R276). -/

namespace Sys2Proof

/-- The memory after HTX has stored a message in slot `i` (R272 `L4` to `L7`). -/
def Cfg.storeMsg (cfg : Cfg) (mem : Memory) (i : Nat) (m : TxMsg) : Memory :=
  (((mem.storeWord (cfg.txWord i 2) (Machine.payloadLow m.data)).storeWord (cfg.txWord i 3)
    (Machine.payloadHigh m.data)).storeWord (cfg.txWord i 1)
      (Machine.packTxCtl cfg.pack (Machine.txCtlOf cfg m i))).storeWord (cfg.txWord i 0)
        (Machine.packTxId cfg.pack (Machine.txIdOf m))

namespace Cfg

variable {cfg : Cfg} {mem : Memory} (hm : Memory.wf mem = true)
include hm

theorem storeMsg_wf (i : Nat) (m : TxMsg) : Memory.wf (cfg.storeMsg mem i m) = true :=
  Memory.storeWord_wf _ _ (Memory.storeWord_wf _ _ (Memory.storeWord_wf _ _ (Memory.storeWord_wf _ _ hm)))

theorem load_storeMsg_outside {i x : Nat} (m : TxMsg) (h : x < cfg.txWord i 0 ∨ cfg.txWord i 0 + 16 ≤ x) :
    (cfg.storeMsg mem i m).load x = mem.load x := by
  have hm2 := Memory.storeWord_wf (cfg.txWord i 2) (Machine.payloadLow m.data) hm
  have hm3 := Memory.storeWord_wf (cfg.txWord i 3) (Machine.payloadHigh m.data) hm2
  have hm1 := Memory.storeWord_wf (cfg.txWord i 1) (Machine.packTxCtl cfg.pack (Machine.txCtlOf cfg m i)) hm3
  have hout (w : Nat) (hw : w < 4) : Machine.outsideWord (cfg.txWord i w) x := by
    unfold Machine.outsideWord txWord at *
    omega
  rw [storeMsg, Memory.load_storeWord_outside _ hm1 (hout 0 (by omega)),
    Memory.load_storeWord_outside _ hm3 (hout 1 (by omega)), Memory.load_storeWord_outside _ hm2 (hout 3 (by omega)),
    Memory.load_storeWord_outside _ hm (hout 2 (by omega))]

theorem loadWord_storeMsg_outside {i a : Nat} (m : TxMsg) (h : a + 4 ≤ cfg.txWord i 0 ∨ cfg.txWord i 0 + 16 ≤ a) :
    (cfg.storeMsg mem i m).loadWord a = mem.loadWord a := by
  simp only [Memory.loadWord]
  repeat rw [load_storeMsg_outside hm m (by omega)]

end Cfg

end Sys2Proof

namespace Sys2Proof.Machine

/-- What a slot holds is read from its four words. -/
theorem State.slotHolds.congr {s t : State} {i : Nat} {m : TxMsg} (h : s.slotHolds i m) (hcfg : t.cfg = s.cfg)
    (hword : ∀ w < 4, memRead t (s.cfg.txWord i w) = memRead s (s.cfg.txWord i w)) : t.slotHolds i m := by
  unfold State.slotHolds at h ⊢
  rwa [hcfg, hword 0 (by omega), hword 1 (by omega), hword 2 (by omega), hword 3 (by omega)]

section

variable {s : State} {mem : Memory} (hm : Memory.wf mem = true)
include hm

theorem slotHolds_storeMsg_same (i : Nat) (m : TxMsg) : (s.setMem (s.cfg.storeMsg mem i m)).slotHolds i m := by
  have hm2 := Memory.storeWord_wf (s.cfg.txWord i 2) (payloadLow m.data) hm
  have hm3 := Memory.storeWord_wf (s.cfg.txWord i 3) (payloadHigh m.data) hm2
  have hm1 := Memory.storeWord_wf (s.cfg.txWord i 1) (packTxCtl s.cfg.pack (txCtlOf s.cfg m i)) hm3
  have hother {w v : Nat} (hne : w ≠ v) :
      s.cfg.txWord i w + 4 ≤ s.cfg.txWord i v ∨ s.cfg.txWord i v + 4 ≤ s.cfg.txWord i w := by
    unfold Cfg.txWord
    omega
  refine ⟨?_, ?_, ?_, ?_⟩ <;> simp only [memRead, setMem_mem, setMem_cfg, Cfg.storeMsg]
  · exact Memory.loadWord_storeWord_same _ _ hm1
  · rw [Memory.loadWord_storeWord_other _ hm1 (hother (by omega))]
    exact Memory.loadWord_storeWord_same _ _ hm3
  · rw [Memory.loadWord_storeWord_other _ hm1 (hother (by omega)),
      Memory.loadWord_storeWord_other _ hm3 (hother (by omega)),
      Memory.loadWord_storeWord_other _ hm2 (hother (by omega))]
    exact Memory.loadWord_storeWord_same _ _ hm
  · rw [Memory.loadWord_storeWord_other _ hm1 (hother (by omega)),
      Memory.loadWord_storeWord_other _ hm3 (hother (by omega))]
    exact Memory.loadWord_storeWord_same _ _ hm2

/-- Storing a message in one slot leaves the others alone. -/
theorem slotHolds_storeMsg_other (hfit : s.cfg.elementsFit = true) {i j : Nat} (hne : j ≠ i) {m' : TxMsg} (m : TxMsg)
    (h : (s.setMem mem).slotHolds j m') : (s.setMem (s.cfg.storeMsg mem i m)).slotHolds j m' := by
  simp only [Cfg.elementsFit, decide_eq_true_eq] at hfit
  refine h.congr rfl fun w hw => Cfg.loadWord_storeMsg_outside hm m ?_
  simp only [setMem_cfg, Cfg.txWord]
  rcases Nat.lt_or_gt_of_ne hne with hlt | hlt
  all_goals
    have hnext := Nat.mul_le_mul_right s.cfg.txSz hlt
    rw [Nat.succ_mul] at hnext
    omega

end

/-! The ring during a pass. -/

/-- The `n` slots from `put` on, round a ring of `depth` slots, are different ones. -/
theorem slot_ne_of_lt {put depth i j : Nat} (hij : i < j) (hj : j < depth) : (put + i) % depth ≠ (put + j) % depth := by
  intro h
  have heq := Nat.ModEq.add_left_cancel' (n := depth) put h
  rw [Nat.ModEq, Nat.mod_eq_of_lt (hij.trans hj), Nat.mod_eq_of_lt hj] at heq
  omega

namespace Ctrl

/-- The controller with the `n` slots from `put` on requested, in that order (R136). -/
def requested (k : Ctrl) (n : Nat) : Ctrl :=
  { k with
    txReq := (List.range n).map (fun j => (k.txPut + j) % k.txc.count)
    txPut := (k.txPut + n) % k.txc.count }

variable {k : Ctrl} {n : Nat}

theorem requested_zero (hput : k.txPut < k.txc.count) (hreq : k.txReq = []) : k.requested 0 = k := by
  rw [requested, List.range_zero, List.map_nil, ← hreq, Nat.add_zero, Nat.mod_eq_of_lt hput]

theorem requested_length : (k.requested n).txReq.length = n := by simp [requested]

/-- While a slot is left, `put` names a free one. -/
theorem requested_put_free (hn : n < k.txc.count) : (k.requested n).txPut ∉ (k.requested n).txReq := by
  intro hmem
  obtain ⟨j, hj, heq⟩ := List.mem_map.mp hmem
  exact slot_ne_of_lt (List.mem_range.mp hj) hn heq

theorem doorbellOk_requested (hn : n < k.txc.count) :
    (k.requested n).doorbellOk (1#32 <<< (k.requested n).txPut) = true :=
  doorbellOk_iff.mpr ⟨rfl, Nat.mod_lt _ (by omega), by rw [requested_length]; exact hn.ne, requested_put_free hn⟩

theorem rung_requested : (k.requested n).rung = k.requested (n + 1) := by
  have hnext : ({ k.requested n with
      txReq := (k.requested n).txReq ++ [(k.requested n).txPut]
      txPut := ((k.requested n).txPut + 1) % (k.requested n).txc.count } : Ctrl) = k.requested (n + 1) := by
    simp only [requested, List.range_succ, List.map_append, List.map_cons, List.map_nil, Nat.mod_add_mod, Nat.add_assoc]
  rw [rung, hnext]
  rcases (k.requested (n + 1)).settled_cases with ⟨-, heq⟩ | ⟨hleft, htaken, -⟩
  · exact heq
  · rw [requested_length] at hleft
    exact absurd htaken (requested_put_free hleft)

end Ctrl

/-! A pass as a whole (R272, R273). -/

/-- The frame of an HTX at a label, after `n` messages. -/
def htxAt (n : Nat) (loc : Locals) (l : Label) : Frame :=
  { Frame.start .htx with seq := l, loc := loc, crit := l.inCrit, n := n }

/-- `s` with these messages left in the source and this message RAM. -/
def State.fed (s : State) (q : List TxMsg) (mem : Memory) : State := { s with source := q, mem := mem }

theorem setMem_fed (s : State) (q : List TxMsg) (mem mem' : Memory) : (s.fed q mem).setMem mem' = s.fed q mem' := rfl

theorem State.Fresh.fed {s : State} {i : Instr} (h : s.Fresh i) (q : List TxMsg) (mem : Memory) : (s.fed q mem).Fresh i :=
  ⟨h.validCfg, h.quiet, h.noIs, h.started⟩

theorem htxAt_at {s : State} (h : s.Fresh .htx) (r : HostRegs) (k : Ctrl) (n : Nat) (loc : Locals) {l : Label} :
    (s.midway r k (htxAt n loc l)).At .fg (htxAt n loc l) l := midway_at h.noIs

section

variable {s : State} {r : HostRegs} {k : Ctrl} {n : Nat} {loc : Locals} (h : s.Fresh .htx)
include h

/-- The first step of HTX. -/
theorem htx_start (l : Nat) :
    runSteps (l + 1) s =
      runSteps l (s.midway (ecr1 s).regs (Ctrl.ecrTaken s.cfg s.ctrl) (htxAt 0 Locals.empty .htxL0)) := by
  have hat : s.At .fg (Frame.start .htx) .htxS0 := ⟨current_fg h.noIs h.started, rfl⟩
  obtain ⟨hread, -⟩ := htxSteps s .fg (Frame.start .htx) _ rfl
  refine runSteps_succ ?_ l
  rw [step_quiet h.validCfg h.quiet, sequencerStep_current hat.1]
  exact hread hat

/-- With a message pending the loop enters its critical section and reads `TXS` (R272 `L0` to `L2`). -/
theorem htx_enter (hdev : r.cstate.dev = s.regs.cstate.dev) (hpending : s.source ≠ []) (l : Nat) :
    runSteps (l + 3) (s.midway r k (htxAt n loc .htxL0)) = runSteps l
      (s.midway r k (htxAt n { loc with put := k.txPut } (if k.txReq.length = k.txc.count then .htxX1 else .htxL3))) := by
  have hstatus := htx_status (htxAt_at h r k n loc)
  rw [midway_ctrl hdev] at hstatus
  calc _
    _ = runSteps (l + 2) (s.midway r k (htxAt n loc .htxL1)) :=
      runSteps_midway h (htx_pending (htxAt_at h r k n loc) hpending) _
    _ = runSteps (l + 1) (s.midway r k (htxAt n loc .htxL2)) :=
      runSteps_midway h (htx_critEnter (htxAt_at h ..)) _
    _ = _ := by
      rw [runSteps_midway h hstatus]
      split <;> rfl

/-- The message in hand goes into its slot (R272 `L4` to `L7`). -/
theorem htx_store (l : Nat) :
    runSteps (l + 4) (s.midway r k (htxAt n loc .htxL4)) = runSteps l
      ((s.setMem (s.cfg.storeMsg s.mem loc.put loc.m)).midway r k (htxAt n loc .htxL8)) := by
  have hat {mem : Memory} {lab : Label} := htxAt_at (h.setMem mem) r k n loc (l := lab)
  have store {mem : Memory} {a : Nat} {v : Word} {lab lab' : Label}
      (hexec : exec .htx ((s.setMem mem).midway r k (htxAt n loc lab)) = .next
        ((memWrite ((s.setMem mem).midway r k (htxAt n loc lab)) a v).moved .fg (htxAt n loc lab) lab'))
      (hcrit : lab.inCrit = lab'.inCrit) (j : Nat) :
      runSteps (j + 1) ((s.setMem mem).midway r k (htxAt n loc lab)) =
        runSteps j ((s.setMem (mem.storeWord a v)).midway r k (htxAt n loc lab')) := by
    rw [runSteps_midway (h.setMem mem) hexec j, htxAt, hcrit]
    rfl
  exact (store (htx_storeLow hat) rfl (l + 3)).trans ((store (htx_storeHigh hat) rfl (l + 2)).trans
    ((store (htx_storeControl hat) rfl (l + 1)).trans (store (htx_storeId hat) rfl l)))

/-- The slot is requested, the message counted (R272 `L8`, `L9`). -/
theorem htx_request (hdev : r.cstate.dev = s.regs.cstate.dev) (hput : loc.put = k.txPut) (h32 : k.txPut < 32)
    (hok : k.doorbellOk (1#32 <<< k.txPut) = true) (l : Nat) :
    runSteps (l + 2) (s.midway r k (htxAt n loc .htxL8)) =
      runSteps l (s.midway r k.rung (htxAt (n + 1) loc .htxL0)) := by
  have hring := htx_doorbell (htxAt_at h r k n loc)
  rw [midway_ctrl hdev, midway_setCtrl hdev] at hring
  calc _
    _ = runSteps (l + 1) (s.midway r k.rung (htxAt n loc .htxL9)) := runSteps_midway h (hring hput h32 hok) _
    _ = _ := runSteps_midway h (htx_count (htxAt_at h ..)) l

/-- A turn of the loop moves the next message into the slot `put` names. -/
theorem htx_turn (hdev : r.cstate.dev = s.regs.cstate.dev) {m : TxMsg} {rest : List TxMsg} (hsource : s.source = m :: rest)
    (h32 : k.txPut < 32) (hok : k.doorbellOk (1#32 <<< k.txPut) = true) (l : Nat) :
    runSteps (l + 10) (s.midway r k (htxAt n loc .htxL0)) = runSteps l
      ((s.fed rest (s.cfg.storeMsg s.mem k.txPut m)).midway r k.rung
        (htxAt (n + 1) { loc with put := k.txPut, m := m } .htxL0)) := by
  obtain ⟨-, -, hroom, -⟩ := doorbellOk_iff.mp hok
  calc _
    _ = runSteps (l + 7) (s.midway r k (htxAt n { loc with put := k.txPut } .htxL3)) := by
      rw [htx_enter h hdev (by simp [hsource]), if_neg hroom]
    _ = runSteps (l + 6) ((s.fed rest s.mem).midway r k (htxAt n { loc with put := k.txPut, m := m } .htxL4)) :=
      runSteps_midway h (htx_take (htxAt_at h r k n _) (takeOutgoing_cons (s := s.midway r k _) hsource)) _
    _ = _ := by
      rw [htx_store (h.fed rest s.mem), setMem_fed]
      exact htx_request (h.fed rest (s.cfg.storeMsg s.mem k.txPut m)) hdev rfl h32 hok l

/-- The end of a pass: on an empty source, or with back-pressure on a full ring (R273). -/
theorem htx_finish (hdev : r.cstate.dev = s.regs.cstate.dev) (hfull : s.source ≠ [] → k.txReq.length = k.txc.count) :
    runSteps (if s.source = [] then 1 else 4) (s.midway r k (htxAt n loc .htxL0)) = .next
      ((s.midway r k (htxAt n loc .htxL0)).ended .fg { htxAt n loc .htxL0 with bp := decide (s.source ≠ []) } .ok) := by
  by_cases hempty : s.source = []
  · rw [if_pos hempty, decide_eq_false (not_not_intro hempty)]
    exact runSteps_midway h (htx_idle (htxAt_at h r k n loc) hempty) 0
  · rw [if_neg hempty, decide_eq_true hempty, htx_enter h hdev hempty 1, if_pos (hfull hempty)]
    exact runSteps_midway h (htx_backPressure (htxAt_at h r k n _)) 0

end

/-- What the message RAM is after a pass that began at slot `put` has moved `n` messages: each is in its slot, and no byte
outside the TX zone has changed. -/
structure State.Sent (s : State) (put n : Nat) (mem : Memory) : Prop where
  wf : Memory.wf mem = true
  holds : ∀ j m, j < n → s.source[j]? = some m → (s.setMem mem).slotHolds ((put + j) % s.cfg.txd) m
  outside : ∀ x, (x < s.cfg.offTx ∨ s.cfg.offTx + s.cfg.txd * s.cfg.txSz ≤ x) → (s.setMem mem).byteAt x = s.byteAt x

theorem State.Sent.none {s : State} (put : Nat) (hm : Memory.wf s.mem = true) : s.Sent put 0 s.mem :=
  ⟨hm, fun _ _ hj => absurd hj (Nat.not_lt_zero _), fun _ _ => rfl⟩

/-- One message more goes into a slot of its own. -/
theorem State.Sent.next {s : State} {put n : Nat} {mem : Memory} {m : TxMsg} (h : s.Sent put n mem)
    (hfit : s.cfg.elementsFit = true) (hn : n < s.cfg.txd) (hmsg : s.source[n]? = some m) :
    s.Sent put (n + 1) (s.cfg.storeMsg mem ((put + n) % s.cfg.txd) m) where
  wf := Cfg.storeMsg_wf h.wf _ _
  holds := by
    intro j m' hj hm'
    rcases Nat.lt_succ_iff_lt_or_eq.mp hj with hlt | rfl
    · exact slotHolds_storeMsg_other h.wf hfit (slot_ne_of_lt hlt hn) m (h.holds j m' hlt hm')
    · rw [hmsg, Option.some.injEq] at hm'
      exact hm' ▸ slotHolds_storeMsg_same h.wf _ m
  outside := by
    intro x hx
    refine (Cfg.load_storeMsg_outside h.wf m ?_).trans (h.outside x hx)
    simp only [Cfg.elementsFit, decide_eq_true_eq] at hfit
    have hlast := Nat.mul_le_mul_right s.cfg.txSz (Nat.mod_lt (put + n) (by omega : 0 < s.cfg.txd))
    rw [Nat.succ_mul] at hlast
    unfold Cfg.txWord
    omega

theorem txd_le_of_valid {cfg : Cfg} (hv : cfg.valid = true) : cfg.txd ≤ 32 := by
  rw [Cfg.valid, Bool.and_eq_true] at hv
  obtain ⟨-, -, -, -, hbound, -⟩ := depths_of_rangesValid hv.1
  exact hbound

/-- The first `n` turns of a pass. -/
theorem htxLoop_run {s : State} {r : HostRegs} {k : Ctrl} {n : Nat} (h : s.Fresh .htx)
    (hdev : r.cstate.dev = s.regs.cstate.dev) (hm : Memory.wf s.mem = true) (hfit : s.cfg.elementsFit = true)
    (hcount : k.txc.count = s.cfg.txd) (hput : k.txPut < s.cfg.txd) (hreq : k.txReq = []) (hlen : n ≤ s.source.length)
    (hdepth : n ≤ s.cfg.txd) :
    ∃ mem loc, s.Sent k.txPut n mem ∧ ∀ l, runSteps (l + 10 * n) (s.midway r k (htxAt 0 Locals.empty .htxL0)) =
      runSteps l ((s.fed (s.source.drop n) mem).midway r (k.requested n) (htxAt n loc .htxL0)) := by
  induction n with
  | zero =>
    rw [Ctrl.requested_zero (hcount ▸ hput) hreq]
    exact ⟨s.mem, Locals.empty, .none _ hm, fun _ => rfl⟩
  | succ n ih =>
    obtain ⟨mem, loc, hsent, hrun⟩ := ih (by omega) (by omega)
    have hn : n < k.txc.count := by omega
    have h32 : (k.requested n).txPut < 32 := by
      have hslot : (k.requested n).txPut < k.txc.count := Nat.mod_lt _ (by omega)
      have hbound := txd_le_of_valid h.validCfg
      omega
    have hturn := htx_turn (n := n) (loc := loc) (h.fed (s.source.drop n) mem) hdev (List.drop_eq_getElem_cons hlen) h32
      (Ctrl.doorbellOk_requested hn)
    rw [Ctrl.rung_requested] at hturn
    refine ⟨_, { loc with put := (k.requested n).txPut, m := s.source[n] },
      hsent.next hfit hdepth (List.getElem?_eq_getElem hlen), fun l => ?_⟩
    rw [Nat.mul_succ, ← Nat.add_assoc, Nat.add_right_comm, hrun, hturn, ← hcount]
    rfl

theorem ecrTaken_txRing (cfg : Cfg) (k : Ctrl) :
    (Ctrl.ecrTaken cfg k).txc = k.txc ∧ (Ctrl.ecrTaken cfg k).txPut = k.txPut ∧
      (Ctrl.ecrTaken cfg k).txReq = k.txReq := by
  unfold Ctrl.ecrTaken
  split <;> exact ⟨rfl, rfl, rfl⟩

/-- `s` after a pass that moved `n` messages, with this message RAM. -/
def htxDone (s : State) (n : Nat) (mem : Memory) : State :=
  ((s.fed (s.source.drop n) mem).midway (ecr1 s).regs ((Ctrl.ecrTaken s.cfg s.ctrl).requested n)
    (htxAt n Locals.empty .htxL0)).ended .fg
      { htxAt n Locals.empty .htxL0 with bp := decide (s.cfg.txd < s.source.length) } .ok

/-- HTX from its first step to its last, the ring empty at entry. -/
theorem htx_run {s : State} {n : Nat} (h : s.Fresh .htx) (hm : Memory.wf s.mem = true) (hfit : s.cfg.elementsFit = true)
    (hcount : s.ctrl.txc.count = s.cfg.txd) (hput : s.ctrl.txPut < s.cfg.txd) (hreq : s.ctrl.txReq = [])
    (hn : n = min s.source.length s.cfg.txd) :
    ∃ mem, s.Sent s.ctrl.txPut n mem ∧
      runSteps (10 * n + if s.source.length ≤ s.cfg.txd then 2 else 5) s = .next (htxDone s n mem) := by
  obtain ⟨htxc, htxPut, htxReq⟩ := ecrTaken_txRing s.cfg s.ctrl
  obtain ⟨mem, loc, hsent, hrun⟩ := htxLoop_run (n := n) (r := (ecr1 s).regs) (k := Ctrl.ecrTaken s.cfg s.ctrl) h rfl hm
    hfit (by rw [htxc, hcount]) (by rwa [htxPut]) (by rw [htxReq, hreq]) (by omega) (by omega)
  rw [htxPut] at hsent
  have hleft : s.source.drop n = [] ↔ s.source.length ≤ s.cfg.txd := by
    rw [List.drop_eq_nil_iff]
    omega
  have hfull (hmore : s.source.drop n ≠ []) :
      ((Ctrl.ecrTaken s.cfg s.ctrl).requested n).txReq.length = (Ctrl.ecrTaken s.cfg s.ctrl).txc.count := by
    rw [Ctrl.requested_length, htxc, hcount]
    rw [Ne, hleft] at hmore
    omega
  have hfinish := htx_finish (n := n) (loc := loc) (h.fed (s.source.drop n) mem) (r := (ecr1 s).regs) rfl hfull
  have hsteps : 10 * n + (if s.source.length ≤ s.cfg.txd then 2 else 5) =
      (if s.source.drop n = [] then 1 else 4) + 10 * n + 1 := by
    simp only [hleft]
    split <;> omega
  have hbp : decide (s.source.drop n ≠ []) = decide (s.cfg.txd < s.source.length) := by simp [hleft]
  refine ⟨mem, hsent, ?_⟩
  rw [hsteps, htx_start h, hrun, htxDone, ← hbp]
  exact hfinish

/-- Settles O40: the state after the pass, read off `htx_run`. -/
theorem htxMovesMessagesIntoTheRing : Obligations.HtxMovesMessagesIntoTheRing := by
  rintro s _ n h hm hfit rfl hcount hput hreq hn
  obtain ⟨mem, hsent, hrun⟩ := htx_run h hm hfit hcount hput hreq hn
  obtain ⟨htxc, htxPut, -⟩ := ecrTaken_txRing s.cfg s.ctrl
  have hctrl : (htxDone s n mem).ctrl = (Ctrl.ecrTaken s.cfg s.ctrl).requested n :=
    (ended_ctrl ..).trans (midway_ctrl (s := s.fed (s.source.drop n) mem) rfl)
  refine ⟨_, _, hrun, rfl, rfl, rfl, rfl, ?_, ?_, hsent.holds, hsent.outside, rfl, rfl, rfl, rfl⟩ <;>
    rw [hctrl, Ctrl.requested, htxPut, htxc, hcount]

end Sys2Proof.Machine
end

section
/-! PROOF. The steps of HRX, of HTXE and of the TX-event drain they share (`44_rx_engine.md` R292, R298, R300). Most are their
rules; the others branch on the ring, on the bracket or on the tag of an event, hand a message over, or acknowledge a slot. -/

namespace Sys2Proof.Machine

/-! What the steps share. -/

/-- The logical id of R93 with its remote flag as a bit (R94). -/
theorem lidOf_eq (id : BitVec 11) (rtr : Bool) : lidOf id rtr = id.setWidth 16 ||| (if rtr then 0x0800 else 0) := by
  rw [lidOf, BitVec.append_def, BitVec.or_comm, BitVec.setWidth'_eq]
  cases rtr <;> rfl

/-- A write of `rx_new` alone to `IR` clears that condition alone (R77). -/
theorem IrqSet.clear_rxNew (pending : IrqSet) :
    IrqSet.clear pending { rxNew := true, txDone := false } = { pending with rxNew := false } := by
  simp [IrqSet.clear]

/-- The message of the RX slot a frame has read, at the time its bracket gives it (R293). -/
def Frame.rxMessage (f : Frame) (s : State) : RxMsg :=
  let r := f.rxHead s.cfg
  msgOf r.id r.rtr r.dlc f.loc.w2 f.loc.w3 (absoluteTime s.regs.cpb f.loc.t1 f.loc.now16 r.ts)

/-- The message of the event a frame has read, at the time its bracket gives it (R298). -/
def Frame.ownMessage (f : Frame) (s : State) : RxMsg :=
  let e := f.txEvent s.cfg
  msgOf e.id e.rtr e.dlc f.loc.p0 f.loc.p1 (absoluteTime s.regs.cpb f.loc.t1 f.loc.now16 e.ts)

section

variable {s : State} {c : Ctx} {f : Frame}

theorem rc3_dirty {retry : Label} {on : Frame → State → State}
    (hdirty : s.cfg.tsBracketMax < (s.clock - f.loc.t0).toNat) :
    rc3 c f retry on s = s.moved c { f with loc := { f.loc with t1 := s.clock } } retry := by
  rcases rc3_cases c f retry on s with ⟨-, h⟩ | ⟨hclean, -⟩
  · exact h
  · omega

theorem rc3_clean {retry : Label} {on : Frame → State → State}
    (hclean : (s.clock - f.loc.t0).toNat ≤ s.cfg.tsBracketMax) :
    rc3 c f retry on s = on { f with loc := { f.loc with t1 := s.clock } } s := by
  rcases rc3_cases c f retry on s with ⟨hdirty, -⟩ | ⟨-, h⟩
  · omega
  · exact h

/-! HRX (R292). -/

/-- The test of the loop. -/
theorem hrx_test (h : s.At c f .hrxL0) : exec .hrx s = .next
    (if s.ctrl.rxFill = 0 then (if s.cfg.rxIrqAck then s.moved c f .hrxE0 else afterEmpty c f s)
    else s.moved c { f with loc := { f.loc with get := s.ctrl.rxGet } } .hrxL1) := withFrame_at _ h

theorem hrx_some (h : s.At c f .hrxL0) (hfill : s.ctrl.rxFill ≠ 0) :
    exec .hrx s = .next (s.moved c { f with loc := { f.loc with get := s.ctrl.rxGet } } .hrxL1) := by
  rw [hrx_test h, if_neg hfill]

theorem hrx_none (h : s.At c f .hrxL0) (hfill : s.ctrl.rxFill = 0) :
    exec .hrx s = .next (if s.cfg.rxIrqAck then s.moved c f .hrxE0 else afterEmpty c f s) := by
  rw [hrx_test h, if_pos hfill]

theorem hrx_word0 (h : s.At c f .hrxL1) : exec .hrx s = .next
    (s.moved c { f with loc := { f.loc with w0 := memRead s (s.cfg.rxWord f.loc.get 0) } } .hrxL2) := withFrame_at _ h

theorem hrx_word1 (h : s.At c f .hrxL2) : exec .hrx s = .next
    (s.moved c { f with loc := { f.loc with w1 := memRead s (s.cfg.rxWord f.loc.get 1) } } .hrxL3) := withFrame_at _ h

theorem hrx_word2 (h : s.At c f .hrxL3) : exec .hrx s = .next
    (s.moved c { f with loc := { f.loc with w2 := memRead s (s.cfg.rxWord f.loc.get 2) } } .hrxL4) := withFrame_at _ h

theorem hrx_word3 (h : s.At c f .hrxL4) : exec .hrx s = .next
    (s.moved c { f with loc := { f.loc with w3 := memRead s (s.cfg.rxWord f.loc.get 3) } } .hrxL5) := withFrame_at _ h

theorem hrx_bracketStart (h : s.At c f .hrxL5) :
    exec .hrx s = .next (s.moved c { f with loc := { f.loc with t0 := s.clock } } .hrxL6) := withFrame_at _ h

theorem hrx_bracketCount (h : s.At c f .hrxL6) :
    exec .hrx s = .next (s.moved c { f with loc := { f.loc with now16 := s.ctrl.tscnt } } .hrxL7) := withFrame_at _ h

theorem hrx_bracketEnd (h : s.At c f .hrxL7) :
    exec .hrx s = .next (rc3 c { f with seq := .hrxL7 } .hrxL5 (fun g s => goto c g .hrxL8 s) s) := withFrame_at _ h

theorem hrx_bracketDirty (h : s.At c f .hrxL7) (hdirty : s.cfg.tsBracketMax < (s.clock - f.loc.t0).toNat) :
    exec .hrx s = .next (s.moved c { f with loc := { f.loc with t1 := s.clock } } .hrxL5) := by
  rw [hrx_bracketEnd h]
  exact congrArg Host.Outcome.next (rc3_dirty hdirty)

theorem hrx_bracketClean (h : s.At c f .hrxL7) (hclean : (s.clock - f.loc.t0).toNat ≤ s.cfg.tsBracketMax) :
    exec .hrx s = .next (s.moved c { f with loc := { f.loc with t1 := s.clock } } .hrxL8) := by
  rw [hrx_bracketEnd h]
  exact congrArg Host.Outcome.next (rc3_clean hclean)

theorem hrx_handOver (h : s.At c f .hrxL8) : exec .hrx s = .next
    ((onReceived (f.rxMessage s) (s.setRegs
      { s.regs with tsAbs := (f.rxMessage s).timestamp, rxCount := s.regs.rxCount + 1 })).moved c f .hrxL9) :=
  withFrame_at _ h

/-- The acknowledge within the contract of R134. -/
theorem hrx_acknowledge (h : s.At c f .hrxL9) (hget : f.loc.get = s.ctrl.rxGet) (hfill : 0 < s.ctrl.rxFill) :
    exec .hrx s = .next ((s.setCtrl
      { s.ctrl with rxGet := (s.ctrl.rxGet + 1) % s.ctrl.rxc.count, rxFill := s.ctrl.rxFill - 1 }).moved c
        { f with n := f.n + 1 } .hrxL0) := by
  have hstep : exec .hrx s = .next ((ackRx s f.loc.get).moved c { f with n := f.n + 1 } .hrxL0) := withFrame_at _ h
  rw [hstep, ackRx_contract hget hfill]

/-- The empty exit (R295). -/
theorem hrx_clear (h : s.At c f .hrxE0) : exec .hrx s = .next
    (afterEmpty c f (s.setCtrl { s.ctrl with ir := { s.ctrl.ir with rxNew := false } })) := by
  have hstep : exec .hrx s = .next (afterEmpty c { f with seq := .hrxE0 }
      (s.setCtrl { s.ctrl with ir := IrqSet.clear s.ctrl.ir { rxNew := true, txDone := false } })) := withFrame_at _ h
  rw [hstep, IrqSet.clear_rxNew]
  rfl

end

/-- Settles O31: the rules of the labels. -/
theorem hrxSteps : Obligations.HrxSteps := by
  rintro s c f _ _ _ rfl rfl rfl
  refine ⟨hrx_some, hrx_none, hrx_word0, hrx_word1, hrx_word2, hrx_word3, hrx_bracketStart, hrx_bracketCount,
    hrx_bracketDirty, hrx_bracketClean, fun h => ?_, hrx_acknowledge, hrx_clear⟩
  rw [← lidOf_eq]
  exact hrx_handOver h

/-! The drain (R298). -/

/-- In both operations that inline the drain, a step at one of its labels is the drain's. -/
theorem exec_drain {i : Instr} {s : State} {c : Ctx} {f : Frame} {l : Label} (hi : i = .hrx ∨ i = .htxe)
    (h : s.At c f l) (hl : l.isDrain = true) : exec i s = drainStep c { f with seq := l } s := by
  rcases hi with rfl | rfl <;> refine (withFrame_at _ h).trans ?_ <;> cases l <;> cases hl <;> rfl

/-- The frame `f` is about to read `TXES`: at `TE.L0`, or in an HTXE with `RX_OWN_TX` at its first label, which is no step then
(R300). -/
def State.AtDrain (s : State) (i : Instr) (c : Ctx) (f : Frame) : Prop :=
  s.At c f .teL0 ∨ (i = .htxe ∧ s.At c f .htxeS0 ∧ s.cfg.rxOwnTx = true)

section

variable {i : Instr} {s : State} {c : Ctx} {f : Frame}

theorem htxe_off (h : s.At c f .htxeS0) (hown : s.cfg.rxOwnTx = false) : exec .htxe s = .next (s.ended c f .ok) := by
  have hstep : exec .htxe s = if s.cfg.rxOwnTx then drainStep c { f with seq := .teL0 } s else .next (s.ended c f .ok) :=
    withFrame_at _ h
  rw [hstep, hown]
  rfl

theorem htxe_on (h : s.At c f .htxeS0) (hown : s.cfg.rxOwnTx = true) :
    exec .htxe s = drainStep c { f with seq := .teL0 } s := by
  have hstep : exec .htxe s = if s.cfg.rxOwnTx then drainStep c { f with seq := .teL0 } s else .next (s.ended c f .ok) :=
    withFrame_at _ h
  rw [hstep, hown]
  rfl

theorem payloadOrZero_slot {l : Label} {cfg : Cfg} (htag : (f.txEvent cfg).tag.toNat < cfg.txd) :
    Frame.payloadOrZero { f with seq := l } cfg = { f with seq := l } := if_neg (Nat.not_le.mpr htag)

theorem payloadOrZero_noSlot {l : Label} {cfg : Cfg} (htag : cfg.txd ≤ (f.txEvent cfg).tag.toNat) :
    Frame.payloadOrZero { f with seq := l } cfg = { f with seq := l, loc := { f.loc with p0 := 0, p1 := 0 } } :=
  if_pos htag

variable (hi : i = .hrx ∨ i = .htxe)
include hi

/-- The test of the drain's loop. -/
theorem drain_test (h : s.AtDrain i c f) : exec i s = .next
    (if s.ctrl.txeFill = 0 then s.ended c f .ok
    else s.moved c { f with loc := { f.loc with eget := s.ctrl.txeGet } } .teL1) := by
  rcases h with h | ⟨rfl, h, hown⟩
  · exact exec_drain hi h rfl
  · exact htxe_on h hown

theorem drain_none (h : s.AtDrain i c f) (hfill : s.ctrl.txeFill = 0) : exec i s = .next (s.ended c f .ok) := by
  rw [drain_test hi h, if_pos hfill]

theorem drain_some (h : s.AtDrain i c f) (hfill : s.ctrl.txeFill ≠ 0) :
    exec i s = .next (s.moved c { f with loc := { f.loc with eget := s.ctrl.txeGet } } .teL1) := by
  rw [drain_test hi h, if_neg hfill]

theorem drain_event0 (h : s.At c f .teL1) : exec i s = .next
    (s.moved c { f with loc := { f.loc with v0 := memRead s (s.cfg.txeWord f.loc.eget 0) } } .teL2) := exec_drain hi h rfl

/-- The second word holds the tag; one that is no slot skips the payload (R299 e). -/
theorem drain_event1 {v1 : Word} (h : s.At c f .teL2) (hv1 : v1 = memRead s (s.cfg.txeWord f.loc.eget 1)) :
    exec i s = .next (s.moved c { f with loc := { f.loc with v1 := v1 } }
      (if s.cfg.txd ≤ (unpackTxe s.cfg.pack f.loc.v0 v1).tag.toNat then .teL5 else .teL3)) := by
  subst hv1
  exact exec_drain hi h rfl

theorem drain_eventSlot (h : s.At c f .teL2)
    (htag : (unpackTxe s.cfg.pack f.loc.v0 (memRead s (s.cfg.txeWord f.loc.eget 1))).tag.toNat < s.cfg.txd) :
    exec i s = .next
      (s.moved c { f with loc := { f.loc with v1 := memRead s (s.cfg.txeWord f.loc.eget 1) } } .teL3) := by
  rw [drain_event1 hi h rfl, if_neg (Nat.not_le.mpr htag)]

theorem drain_payload0 (h : s.At c f .teL3) : exec i s = .next (s.moved c
    { f with loc := { f.loc with p0 := memRead s (s.cfg.txWord (f.txEvent s.cfg).tag.toNat 2) } } .teL4) :=
  exec_drain hi h rfl

theorem drain_payload1 (h : s.At c f .teL4) : exec i s = .next (s.moved c
    { f with loc := { f.loc with p1 := memRead s (s.cfg.txWord (f.txEvent s.cfg).tag.toNat 3) } } .teL5) :=
  exec_drain hi h rfl

/-- The start of the bracket, after the payload of a tag that is no slot is set (R299 e). -/
theorem drain_bracketStart (h : s.At c f .teL5) : exec i s = .next
    (s.moved c (rc1 (Frame.payloadOrZero { f with seq := .teL5 } s.cfg) s) .teL6) := exec_drain hi h rfl

theorem drain_bracketSlot (h : s.At c f .teL5) (htag : (f.txEvent s.cfg).tag.toNat < s.cfg.txd) :
    exec i s = .next (s.moved c { f with loc := { f.loc with t0 := s.clock } } .teL6) := by
  rw [drain_bracketStart hi h, payloadOrZero_slot htag]
  rfl

theorem drain_bracketNoSlot (h : s.At c f .teL5) (htag : s.cfg.txd ≤ (f.txEvent s.cfg).tag.toNat) :
    exec i s = .next (s.moved c { f with loc := { f.loc with p0 := 0, p1 := 0, t0 := s.clock } } .teL6) := by
  rw [drain_bracketStart hi h, payloadOrZero_noSlot htag]
  rfl

theorem drain_bracketCount (h : s.At c f .teL6) :
    exec i s = .next (s.moved c { f with loc := { f.loc with now16 := s.ctrl.tscnt } } .teL7) := exec_drain hi h rfl

theorem drain_bracketEnd (h : s.At c f .teL7) :
    exec i s = .next (rc3 c { f with seq := .teL7 } .teL5 (fun g s => goto c g .teL8 s) s) := exec_drain hi h rfl

theorem drain_bracketDirty (h : s.At c f .teL7) (hdirty : s.cfg.tsBracketMax < (s.clock - f.loc.t0).toNat) :
    exec i s = .next (s.moved c { f with loc := { f.loc with t1 := s.clock } } .teL5) := by
  rw [drain_bracketEnd hi h]
  exact congrArg Host.Outcome.next (rc3_dirty hdirty)

theorem drain_bracketClean (h : s.At c f .teL7) (hclean : (s.clock - f.loc.t0).toNat ≤ s.cfg.tsBracketMax) :
    exec i s = .next (s.moved c { f with loc := { f.loc with t1 := s.clock } } .teL8) := by
  rw [drain_bracketEnd hi h]
  exact congrArg Host.Outcome.next (rc3_clean hclean)

theorem drain_handOver (h : s.At c f .teL8) : exec i s = .next
    ((onReceived (f.ownMessage s) (s.setRegs { s.regs with tsAbs := (f.ownMessage s).timestamp })).moved c f .teL9) :=
  exec_drain hi h rfl

/-- The acknowledge within the contract of R138. -/
theorem drain_acknowledge (h : s.At c f .teL9) (hget : f.loc.eget = s.ctrl.txeGet) (hfill : 0 < s.ctrl.txeFill) :
    exec i s = .next ((s.setCtrl
      { s.ctrl with txeGet := (s.ctrl.txeGet + 1) % s.ctrl.txec.count, txeFill := s.ctrl.txeFill - 1 }).moved c
        { f with n := f.n + 1 } .teL0) := by
  have hstep : exec i s = .next ((ackTxe s f.loc.eget).moved c { f with n := f.n + 1 } .teL0) := exec_drain hi h rfl
  rw [hstep, ackTxe_contract hget hfill]

end

/-- Settles O32: the rules of the labels. -/
theorem txEventDrainSteps : Obligations.TxEventDrainSteps := by
  refine ⟨fun s c f => htxe_off, ?_⟩
  rintro i hi s c f _ _ _ rfl rfl rfl
  refine ⟨drain_none hi, drain_some hi, drain_event0 hi, fun v1 => drain_event1 hi, drain_payload0 hi, drain_payload1 hi,
    drain_bracketSlot hi, drain_bracketNoSlot hi, drain_bracketCount hi, drain_bracketDirty hi, drain_bracketClean hi,
    fun h => ?_, drain_acknowledge hi⟩
  rw [← lidOf_eq]
  exact drain_handOver hi h

end Sys2Proof.Machine
end

section
/-! PROOF. HRX and HTXE as a whole, with no other agent moving (`44_rx_engine.md` R292, R295, R296, R298, R301). Each turn of
their loops is ten steps: the oldest slot or event is read, its time reconciled, its message handed over, its place in the ring
released. After `n` turns the first `n` messages have been handed over, in ring order. -/

namespace Sys2Proof.Machine

/-! A pass. -/

/-- The frame of a pass at a label, after `n` messages. -/
def passAt (i : Instr) (n : Nat) (loc : Locals) (l : Label) : Frame := { Frame.start i with seq := l, loc := loc, n := n }

/-- `s` with these messages handed to the consumer. -/
def State.handed (s : State) (ms : List RxMsg) : State := { s with consumer := s.consumer ++ ms }

theorem handed_nil (s : State) : s.handed [] = s := by rw [State.handed, List.append_nil]

theorem handed_handed (s : State) (ms ms' : List RxMsg) : (s.handed ms).handed ms' = s.handed (ms ++ ms') := by
  simp only [State.handed, List.append_assoc]

theorem slotMessage_handed (s : State) (ms : List RxMsg) (i : Nat) : (s.handed ms).slotMessage i = s.slotMessage i := rfl

theorem eventMessage_handed (s : State) (ms : List RxMsg) (i : Nat) : (s.handed ms).eventMessage i = s.eventMessage i :=
  rfl

theorem State.Fresh.handed {s : State} {i : Instr} (h : s.Fresh i) (ms : List RxMsg) : (s.handed ms).Fresh i :=
  ⟨h.validCfg, h.quiet, h.noIs, h.started⟩

/-- The locals after a bracket in which neither clock moves (`45_timestamp.md` R322). -/
def Locals.bracketed (loc : Locals) (clock : Word) (count : BitVec 16) : Locals :=
  { loc with t0 := clock, now16 := count, t1 := clock }

/-- The locals after the reads of RX slot `i` (R292 `L0` to `L4`). -/
def Locals.slotRead (loc : Locals) (s : State) (i : Nat) : Locals :=
  { loc with
    get := i
    w0 := memRead s (s.cfg.rxWord i 0)
    w1 := memRead s (s.cfg.rxWord i 1)
    w2 := memRead s (s.cfg.rxWord i 2)
    w3 := memRead s (s.cfg.rxWord i 3) }

/-- The locals after the reads of TX event `i` and of the payload of the slot it names (R298 `TE.L0` to `TE.L4`). -/
def Locals.eventRead (loc : Locals) (s : State) (i : Nat) : Locals :=
  { loc with
    eget := i
    v0 := memRead s (s.cfg.txeWord i 0)
    v1 := memRead s (s.cfg.txeWord i 1)
    p0 := memRead s (s.cfg.txWord (s.eventAt i).tag.toNat 2)
    p1 := memRead s (s.cfg.txWord (s.eventAt i).tag.toNat 3) }

/-- The controller with the `n` oldest messages of its RX ring acknowledged (`20_memory.md` R134). -/
def Ctrl.rxReleased (k : Ctrl) (n : Nat) : Ctrl :=
  { k with rxGet := (k.rxGet + n) % k.rxc.count, rxFill := k.rxFill - n }

/-- The controller with the `n` oldest of its TX events acknowledged (`20_memory.md` R138). -/
def Ctrl.txeReleased (k : Ctrl) (n : Nat) : Ctrl :=
  { k with txeGet := (k.txeGet + n) % k.txec.count, txeFill := k.txeFill - n }

/-- The controller with its "new message" condition cleared (R295). -/
def Ctrl.rxSeen (k : Ctrl) : Ctrl := { k with ir := { k.ir with rxNew := false } }

theorem Ctrl.rxReleased_zero {k : Ctrl} (h : k.rxGet < k.rxc.count) : k.rxReleased 0 = k := by
  rw [rxReleased, Nat.add_zero, Nat.mod_eq_of_lt h, Nat.sub_zero]

theorem Ctrl.txeReleased_zero {k : Ctrl} (h : k.txeGet < k.txec.count) : k.txeReleased 0 = k := by
  rw [txeReleased, Nat.add_zero, Nat.mod_eq_of_lt h, Nat.sub_zero]

theorem Ctrl.rxReleased_one (k : Ctrl) (n : Nat) : (k.rxReleased n).rxReleased 1 = k.rxReleased (n + 1) := by
  simp only [rxReleased, Nat.mod_add_mod, Nat.add_assoc, Nat.sub_sub]

theorem Ctrl.txeReleased_one (k : Ctrl) (n : Nat) : (k.txeReleased n).txeReleased 1 = k.txeReleased (n + 1) := by
  simp only [txeReleased, Nat.mod_add_mod, Nat.add_assoc, Nat.sub_sub]

/-- The registers after a message with this time: `TS_ABS` (R298). -/
def HostRegs.stamped (r : HostRegs) (ts : Word) : HostRegs := { r with tsAbs := ts }

/-- The registers after a message with this time out of the RX ring: `TS_ABS` and `RX_COUNT` (R294). -/
def HostRegs.received (r : HostRegs) (ts : Word) : HostRegs := { r with tsAbs := ts, rxCount := r.rxCount + 1 }

/-- These registers and this controller agree with `s` on what a message is made from, but for the ring. -/
structure State.Steady (s : State) (r : HostRegs) (k : Ctrl) : Prop where
  dev : r.cstate.dev = s.regs.cstate.dev
  cpb : r.cpb = s.regs.cpb
  tscnt : k.tscnt = s.ctrl.tscnt

/-- A bracket in which the host clock does not move is clean. -/
theorem sub_self_toNat_le (clock : Word) (bound : Nat) : (clock - clock).toNat ≤ bound := by simp

/-- A loop of `n` turns of ten steps each, from what the turns do. -/
theorem runSteps_turns {S : Nat → Word → Locals → State} {n : Nat}
    (hturn : ∀ j < n, ∀ ts loc, ∃ ts' loc', ∀ l, runSteps (l + 10) (S j ts loc) = runSteps l (S (j + 1) ts' loc'))
    (ts : Word) (loc : Locals) :
    ∃ ts' loc', ∀ l, runSteps (l + 10 * n) (S 0 ts loc) = runSteps l (S n ts' loc') := by
  induction n with
  | zero => exact ⟨ts, loc, fun _ => rfl⟩
  | succ n ih =>
    obtain ⟨ts', loc', hrun⟩ := ih fun j hj => hturn j (Nat.lt_succ_of_lt hj)
    obtain ⟨ts'', loc'', hlast⟩ := hturn n n.lt_succ_self ts' loc'
    exact ⟨ts'', loc'', fun l => by rw [Nat.mul_succ, ← Nat.add_assoc, Nat.add_right_comm, hrun, hlast]⟩

section

variable {s : State} {i : Instr} {r : HostRegs} {k : Ctrl} {n : Nat} {loc : Locals} (h : s.Fresh i)
include h

theorem passAt_at (r : HostRegs) (k : Ctrl) (n : Nat) (loc : Locals) {l : Label} :
    (s.midway r k (passAt i n loc l)).At .fg (passAt i n loc l) l := midway_at h.noIs

/-- A step of a pass that only reads. -/
theorem runSteps_pass {loc' : Locals} {l l' : Label}
    (hexec : exec i (s.midway r k (passAt i n loc l)) = .next
      ((s.midway r k (passAt i n loc l)).moved .fg { passAt i n loc l with loc := loc' } l')) (m : Nat) :
    runSteps (m + 1) (s.midway r k (passAt i n loc l)) = runSteps m (s.midway r k (passAt i n loc' l')) :=
  runSteps_midway h hexec m

end

/-! HRX. -/

section

variable {s : State} {c : Ctx} {f : Frame}

theorem hrx_noneClears (h : s.At c f .hrxL0) (hfill : s.ctrl.rxFill = 0) (hack : s.cfg.rxIrqAck = true) :
    exec .hrx s = .next (s.moved c f .hrxE0) := by
  rw [hrx_none h hfill, if_pos hack]

theorem hrx_noneEnds (h : s.At c f .hrxL0) (hfill : s.ctrl.rxFill = 0) (hack : s.cfg.rxIrqAck = false)
    (hown : s.cfg.rxOwnTx = false) : exec .hrx s = .next (s.ended c f .ok) := by
  rw [hrx_none h hfill, hack, afterEmpty, hown]
  rfl

theorem hrx_clearEnds (h : s.At c f .hrxE0) (hown : s.cfg.rxOwnTx = false) :
    exec .hrx s = .next ((s.setCtrl s.ctrl.rxSeen).ended c f .ok) := by
  rw [hrx_clear h, afterEmpty, setCtrl_cfg, hown]
  rfl

end

section

variable {s : State} {r : HostRegs} {k : Ctrl} {n : Nat} {loc : Locals} (h : s.Fresh .hrx)
include h

/-- The slot the ring names next is read (R292 `L0` to `L4`). -/
theorem hrx_read (hdev : r.cstate.dev = s.regs.cstate.dev) (hfill : k.rxFill ≠ 0) (l : Nat) :
    runSteps (l + 5) (s.midway r k (passAt .hrx n loc .hrxL0)) =
      runSteps l (s.midway r k (passAt .hrx n (loc.slotRead s k.rxGet) .hrxL5)) := by
  have hsome := hrx_some (passAt_at h r k n loc)
  rw [midway_ctrl hdev] at hsome
  rw [runSteps_pass h (hsome hfill), runSteps_pass h (hrx_word0 (passAt_at h ..)),
    runSteps_pass h (hrx_word1 (passAt_at h ..)), runSteps_pass h (hrx_word2 (passAt_at h ..)),
    runSteps_pass h (hrx_word3 (passAt_at h ..))]
  rfl

/-- Its time is reconciled at the first attempt (R292 `L5` to `L7`). -/
theorem hrx_reconcile (hdev : r.cstate.dev = s.regs.cstate.dev) (l : Nat) :
    runSteps (l + 3) (s.midway r k (passAt .hrx n loc .hrxL5)) =
      runSteps l (s.midway r k (passAt .hrx n (loc.bracketed s.clock k.tscnt) .hrxL8)) := by
  have hcount := hrx_bracketCount (passAt_at h r k n { loc with t0 := s.clock })
  have hclean := hrx_bracketClean (passAt_at h r k n { loc with t0 := s.clock, now16 := k.tscnt })
  rw [midway_ctrl hdev] at hcount
  calc _
    _ = runSteps (l + 2) (s.midway r k (passAt .hrx n { loc with t0 := s.clock } .hrxL6)) :=
      runSteps_pass h (hrx_bracketStart (passAt_at h ..)) _
    _ = runSteps (l + 1) (s.midway r k (passAt .hrx n { loc with t0 := s.clock, now16 := k.tscnt } .hrxL7)) :=
      runSteps_pass h hcount _
    _ = _ := runSteps_pass h (hclean (sub_self_toNat_le ..)) l

/-- Its message is handed over and counted, the slot acknowledged (R292 `L8`, `L9`). -/
theorem hrx_deliver {m : RxMsg} (hdev : r.cstate.dev = s.regs.cstate.dev) (hget : loc.get = k.rxGet)
    (hfill : k.rxFill ≠ 0)
    (hm : (passAt .hrx n loc .hrxL8).rxMessage (s.midway r k (passAt .hrx n loc .hrxL8)) = m) (l : Nat) :
    runSteps (l + 2) (s.midway r k (passAt .hrx n loc .hrxL8)) = runSteps l
      ((s.handed [m]).midway (r.received m.timestamp) (k.rxReleased 1) (passAt .hrx (n + 1) loc .hrxL0)) := by
  have hdev' : (r.received m.timestamp).cstate.dev = (s.handed [m]).regs.cstate.dev := hdev
  have hhand := hrx_handOver (passAt_at h r k n loc)
  have hack := hrx_acknowledge (passAt_at (h.handed [m]) (r.received m.timestamp) k n loc)
  rw [hm] at hhand
  rw [midway_ctrl hdev', midway_setCtrl hdev'] at hack
  calc _
    _ = runSteps (l + 1) ((s.handed [m]).midway (r.received m.timestamp) k (passAt .hrx n loc .hrxL9)) :=
      runSteps_midway h hhand _
    _ = _ := runSteps_midway (h.handed [m]) (hack hget (Nat.pos_of_ne_zero hfill)) l

/-- A turn of the loop. -/
theorem hrx_turn (hsteady : s.Steady r k) (hfill : k.rxFill ≠ 0) (l : Nat) :
    runSteps (l + 10) (s.midway r k (passAt .hrx n loc .hrxL0)) = runSteps l
      ((s.handed [s.slotMessage k.rxGet]).midway (r.received (s.slotMessage k.rxGet).timestamp) (k.rxReleased 1)
        (passAt .hrx (n + 1) ((loc.slotRead s k.rxGet).bracketed s.clock k.tscnt) .hrxL0)) := by
  have hmessage : (passAt .hrx n ((loc.slotRead s k.rxGet).bracketed s.clock k.tscnt) .hrxL8).rxMessage
      (s.midway r k (passAt .hrx n ((loc.slotRead s k.rxGet).bracketed s.clock k.tscnt) .hrxL8)) =
        s.slotMessage k.rxGet := by
    rw [State.slotMessage, ← hsteady.cpb, ← hsteady.tscnt]
    rfl
  rw [hrx_read h hsteady.dev hfill, hrx_reconcile h hsteady.dev, hrx_deliver h hsteady.dev rfl hfill hmessage]

/-- The end of a pass with no TX-event path (R295). -/
theorem hrx_finish (hdev : r.cstate.dev = s.regs.cstate.dev) (hown : s.cfg.rxOwnTx = false) (hfill : k.rxFill = 0) :
    runSteps (if s.cfg.rxIrqAck then 2 else 1) (s.midway r k (passAt .hrx n loc .hrxL0)) = .next
      ((s.midway r (if s.cfg.rxIrqAck then k.rxSeen else k) (passAt .hrx n loc .hrxL0)).ended .fg
        (passAt .hrx n loc .hrxL0) .ok) := by
  have hempty : (s.midway r k (passAt .hrx n loc .hrxL0)).ctrl.rxFill = 0 := by rwa [midway_ctrl hdev]
  have hclear := hrx_clearEnds (passAt_at h r k n loc) hown
  rw [midway_ctrl hdev, midway_setCtrl hdev] at hclear
  cases hack : s.cfg.rxIrqAck with
  | false => exact runSteps_midway h (hrx_noneEnds (passAt_at h ..) hempty hack hown) 0
  | true =>
    exact (runSteps_midway h (hrx_noneClears (passAt_at h ..) hempty hack) 1).trans (runSteps_midway h hclear 0)

end

/-- Settles O41: `hrx_finish` of a pass that has done nothing. -/
theorem hrxOnAnEmptyRing : Obligations.HrxOnAnEmptyRing := by
  intro s h hown hfill
  have hself : s.midway s.regs s.ctrl (passAt .hrx 0 Locals.empty .hrxL0) = s := midway_self h.started
  have hseen : s.midway s.regs s.ctrl.rxSeen (passAt .hrx 0 Locals.empty .hrxL0) = s.setCtrl s.ctrl.rxSeen := by
    conv_rhs => rw [← hself]
    rw [midway_ctrl rfl, midway_setCtrl rfl]
  have hfinish := hrx_finish (n := 0) (loc := Locals.empty) h rfl hown hfill
  rw [hself] at hfinish
  rw [hfinish]
  cases s.cfg.rxIrqAck with
  | false => exact congrArg (fun t => Host.Outcome.next (t.ended .fg (Frame.start .hrx) .ok)) hself
  | true => exact congrArg (fun t => Host.Outcome.next (t.ended .fg (Frame.start .hrx) .ok)) hseen

/-- The registers after `n` turns of HRX, the last message stamped `ts`. -/
def hrxRegs (s : State) (n : Nat) (ts : Word) : HostRegs :=
  { s.regs with tsAbs := ts, rxCount := s.regs.rxCount + BitVec.ofNat 32 n }

theorem hrxRegs_zero (s : State) : hrxRegs s 0 s.regs.tsAbs = s.regs := by
  rw [hrxRegs, BitVec.add_zero]

theorem hrxRegs_received (s : State) (n : Nat) (ts ts' : Word) :
    (hrxRegs s n ts).received ts' = hrxRegs s (n + 1) ts' := by
  rw [hrxRegs, hrxRegs, BitVec.ofNat_add, ← BitVec.add_assoc]
  rfl

/-- The messages of the `n` slots from `rx_get` on, in ring order. -/
def hrxMessages (s : State) (n : Nat) : List RxMsg :=
  (List.range n).map fun j => s.slotMessage ((s.ctrl.rxGet + j) % s.ctrl.rxc.count)

theorem hrxMessages_succ (s : State) (n : Nat) :
    hrxMessages s (n + 1) = hrxMessages s n ++ [s.slotMessage (s.ctrl.rxReleased n).rxGet] := by
  rw [hrxMessages, List.range_succ, List.map_append]
  rfl

/-- `s` after `n` turns of HRX, at the test of its loop. -/
def hrxState (s : State) (n : Nat) (ts : Word) (loc : Locals) : State :=
  (s.handed (hrxMessages s n)).midway (hrxRegs s n ts) (s.ctrl.rxReleased n) (passAt .hrx n loc .hrxL0)

/-- `s` after an HRX that handed over `n` messages. -/
def hrxDone (s : State) (n : Nat) (ts : Word) : State :=
  ((s.handed (hrxMessages s n)).midway (hrxRegs s n ts)
    (if s.cfg.rxIrqAck then (s.ctrl.rxReleased n).rxSeen else s.ctrl.rxReleased n)
    (passAt .hrx n Locals.empty .hrxL0)).ended .fg (passAt .hrx n Locals.empty .hrxL0) .ok

theorem hrxState_zero {s : State} (h : s.Fresh .hrx) (hget : s.ctrl.rxGet < s.ctrl.rxc.count) :
    hrxState s 0 s.regs.tsAbs Locals.empty = s := by
  rw [hrxState, hrxMessages, List.range_zero, List.map_nil, handed_nil, hrxRegs_zero, Ctrl.rxReleased_zero hget]
  exact midway_self h.started

/-- The next turn. -/
theorem hrxState_turn {s : State} {n : Nat} (h : s.Fresh .hrx) (hn : n < s.ctrl.rxFill) (ts : Word) (loc : Locals) :
    ∃ ts' loc', ∀ l, runSteps (l + 10) (hrxState s n ts loc) = runSteps l (hrxState s (n + 1) ts' loc') := by
  have hturn := hrx_turn (r := hrxRegs s n ts) (k := s.ctrl.rxReleased n) (n := n) (loc := loc)
    (h.handed (hrxMessages s n)) ⟨rfl, rfl, rfl⟩ (Nat.sub_ne_zero_of_lt hn)
  rw [hrxRegs_received, handed_handed, slotMessage_handed, ← hrxMessages_succ, Ctrl.rxReleased_one] at hturn
  exact ⟨_, _, hturn⟩

/-- HRX from its first step to its last, with no TX-event path. -/
theorem hrx_run {s : State} {n : Nat} (h : s.Fresh .hrx) (hown : s.cfg.rxOwnTx = false)
    (hget : s.ctrl.rxGet < s.ctrl.rxc.count) (hn : n = s.ctrl.rxFill) :
    ∃ ts, runSteps (10 * n + if s.cfg.rxIrqAck then 2 else 1) s = .next (hrxDone s n ts) := by
  obtain ⟨ts, loc, hrun⟩ := runSteps_turns (S := hrxState s) (fun j hj => hrxState_turn h (hn ▸ hj))
    s.regs.tsAbs Locals.empty
  rw [hrxState_zero h hget] at hrun
  refine ⟨ts, ?_⟩
  rw [Nat.add_comm, hrun]
  exact hrx_finish (h.handed _) rfl hown (show s.ctrl.rxFill - n = 0 by omega)

/-- Settles O42: the state after the pass, read off `hrx_run`. -/
theorem hrxDrainsInFifoOrder : Obligations.HrxDrainsInFifoOrder := by
  rintro s _ n h hown rfl hn hcount - hget
  obtain ⟨ts, hrun⟩ := hrx_run h hown (hcount ▸ hget) hn
  have hctrl : (hrxDone s n ts).ctrl =
      if s.cfg.rxIrqAck then (s.ctrl.rxReleased n).rxSeen else s.ctrl.rxReleased n :=
    (ended_ctrl ..).trans (midway_ctrl (s := s.handed (hrxMessages s n)) rfl)
  refine ⟨_, _, hrun, rfl, rfl, rfl, ?_, rfl, ?_, ?_, ?_, fun _ => rfl, rfl, rfl⟩
  · rw [← hcount]
    rfl
  all_goals rw [hctrl]
  · split <;> exact Nat.sub_eq_zero_of_le hn.ge
  · rw [← hcount]
    split <;> rfl
  · split <;> rfl

/-! HTXE. -/

/-- HTXE is one of the two operations that inline the drain (R300). -/
theorem htxe_drains : Instr.htxe = .hrx ∨ Instr.htxe = .htxe := .inr rfl

section

variable {s : State} {r : HostRegs} {k : Ctrl} {n : Nat} {loc : Locals} (h : s.Fresh .htxe)
include h

/-- With `RX_OWN_TX` the first step of HTXE is the drain's (R300). -/
theorem htxe_start (hown : s.cfg.rxOwnTx = true) (l : Nat) :
    runSteps (l + 1) s = runSteps (l + 1) (s.midway s.regs s.ctrl (passAt .htxe 0 Locals.empty .teL0)) := by
  have hself : s.midway s.regs s.ctrl (passAt .htxe 0 Locals.empty .htxeS0) = s := midway_self h.started
  have hfirst := drain_test htxe_drains (.inr ⟨rfl, passAt_at h s.regs s.ctrl 0 Locals.empty, hown⟩)
  have htest := drain_test htxe_drains (.inl (passAt_at h s.regs s.ctrl 0 Locals.empty))
  rw [midway_ctrl rfl] at hfirst htest
  conv_lhs => rw [← hself]
  rw [runSteps_midway h hfirst, runSteps_midway h htest]
  split <;> rfl

/-- The event the ring names next is read, and the payload of the slot its tag names (R298 `TE.L0` to `TE.L4`). -/
theorem htxe_read (hdev : r.cstate.dev = s.regs.cstate.dev) (hfill : k.txeFill ≠ 0)
    (htag : (s.eventAt k.txeGet).tag.toNat < s.cfg.txd) (l : Nat) :
    runSteps (l + 5) (s.midway r k (passAt .htxe n loc .teL0)) =
      runSteps l (s.midway r k (passAt .htxe n (loc.eventRead s k.txeGet) .teL5)) := by
  have hsome := drain_some htxe_drains (.inl (passAt_at h r k n loc))
  have hslot := drain_eventSlot htxe_drains (passAt_at h r k n
    { loc with eget := k.txeGet, v0 := memRead s (s.cfg.txeWord k.txeGet 0) }) htag
  rw [midway_ctrl hdev] at hsome
  rw [runSteps_pass h (hsome hfill), runSteps_pass h (drain_event0 htxe_drains (passAt_at h ..))]
  refine (runSteps_pass h hslot _).trans ?_
  rw [runSteps_pass h (drain_payload0 htxe_drains (passAt_at h ..)),
    runSteps_pass h (drain_payload1 htxe_drains (passAt_at h ..))]
  rfl

/-- Its time is reconciled at the first attempt (R298 `TE.L5` to `TE.L7`). -/
theorem htxe_reconcile (hdev : r.cstate.dev = s.regs.cstate.dev)
    (htag : (unpackTxe s.cfg.pack loc.v0 loc.v1).tag.toNat < s.cfg.txd) (l : Nat) :
    runSteps (l + 3) (s.midway r k (passAt .htxe n loc .teL5)) =
      runSteps l (s.midway r k (passAt .htxe n (loc.bracketed s.clock k.tscnt) .teL8)) := by
  have hstart := drain_bracketSlot htxe_drains (passAt_at h r k n loc) htag
  have hcount := drain_bracketCount htxe_drains (passAt_at h r k n { loc with t0 := s.clock })
  have hclean := drain_bracketClean htxe_drains (passAt_at h r k n { loc with t0 := s.clock, now16 := k.tscnt })
  rw [midway_ctrl hdev] at hcount
  calc _
    _ = runSteps (l + 2) (s.midway r k (passAt .htxe n { loc with t0 := s.clock } .teL6)) :=
      runSteps_pass h hstart _
    _ = runSteps (l + 1) (s.midway r k (passAt .htxe n { loc with t0 := s.clock, now16 := k.tscnt } .teL7)) :=
      runSteps_pass h hcount _
    _ = _ := runSteps_pass h (hclean (sub_self_toNat_le ..)) l

/-- Its message is handed over, the event acknowledged (R298 `TE.L8`, `TE.L9`). -/
theorem htxe_deliver {m : RxMsg} (hdev : r.cstate.dev = s.regs.cstate.dev) (hget : loc.eget = k.txeGet)
    (hfill : k.txeFill ≠ 0)
    (hm : (passAt .htxe n loc .teL8).ownMessage (s.midway r k (passAt .htxe n loc .teL8)) = m) (l : Nat) :
    runSteps (l + 2) (s.midway r k (passAt .htxe n loc .teL8)) = runSteps l
      ((s.handed [m]).midway (r.stamped m.timestamp) (k.txeReleased 1) (passAt .htxe (n + 1) loc .teL0)) := by
  have hdev' : (r.stamped m.timestamp).cstate.dev = (s.handed [m]).regs.cstate.dev := hdev
  have hhand := drain_handOver htxe_drains (passAt_at h r k n loc)
  have hack := drain_acknowledge htxe_drains (passAt_at (h.handed [m]) (r.stamped m.timestamp) k n loc)
  rw [hm] at hhand
  rw [midway_ctrl hdev', midway_setCtrl hdev'] at hack
  calc _
    _ = runSteps (l + 1) ((s.handed [m]).midway (r.stamped m.timestamp) k (passAt .htxe n loc .teL9)) :=
      runSteps_midway h hhand _
    _ = _ := runSteps_midway (h.handed [m]) (hack hget (Nat.pos_of_ne_zero hfill)) l

/-- A turn of the loop. -/
theorem htxe_turn (hsteady : s.Steady r k) (hfill : k.txeFill ≠ 0) (htag : (s.eventAt k.txeGet).tag.toNat < s.cfg.txd)
    (l : Nat) :
    runSteps (l + 10) (s.midway r k (passAt .htxe n loc .teL0)) = runSteps l
      ((s.handed [s.eventMessage k.txeGet]).midway (r.stamped (s.eventMessage k.txeGet).timestamp) (k.txeReleased 1)
        (passAt .htxe (n + 1) ((loc.eventRead s k.txeGet).bracketed s.clock k.tscnt) .teL0)) := by
  have hmessage : (passAt .htxe n ((loc.eventRead s k.txeGet).bracketed s.clock k.tscnt) .teL8).ownMessage
      (s.midway r k (passAt .htxe n ((loc.eventRead s k.txeGet).bracketed s.clock k.tscnt) .teL8)) =
        s.eventMessage k.txeGet := by
    rw [State.eventMessage, ← hsteady.cpb, ← hsteady.tscnt]
    rfl
  rw [htxe_read h hsteady.dev hfill htag, htxe_reconcile (loc := loc.eventRead s k.txeGet) h hsteady.dev htag,
    htxe_deliver h hsteady.dev rfl hfill hmessage]

/-- The end of a pass, on an empty ring. -/
theorem htxe_finish (hdev : r.cstate.dev = s.regs.cstate.dev) (hfill : k.txeFill = 0) :
    runSteps 1 (s.midway r k (passAt .htxe n loc .teL0)) = .next
      ((s.midway r k (passAt .htxe n loc .teL0)).ended .fg (passAt .htxe n loc .teL0) .ok) :=
  runSteps_midway h (drain_none htxe_drains (.inl (passAt_at h ..)) (by rwa [midway_ctrl hdev])) 0

end

/-- The messages of the `n` events from the get cursor on, in ring order. -/
def htxeMessages (s : State) (n : Nat) : List RxMsg :=
  (List.range n).map fun j => s.eventMessage ((s.ctrl.txeGet + j) % s.ctrl.txec.count)

theorem htxeMessages_succ (s : State) (n : Nat) :
    htxeMessages s (n + 1) = htxeMessages s n ++ [s.eventMessage (s.ctrl.txeReleased n).txeGet] := by
  rw [htxeMessages, List.range_succ, List.map_append]
  rfl

/-- `s` after `n` turns of HTXE, at the test of its loop. -/
def htxeState (s : State) (n : Nat) (ts : Word) (loc : Locals) : State :=
  (s.handed (htxeMessages s n)).midway (s.regs.stamped ts) (s.ctrl.txeReleased n) (passAt .htxe n loc .teL0)

/-- `s` after an HTXE that handed over `n` messages. -/
def htxeDone (s : State) (n : Nat) (ts : Word) : State :=
  (htxeState s n ts Locals.empty).ended .fg (passAt .htxe n Locals.empty .teL0) .ok

theorem htxeState_zero {s : State} (hget : s.ctrl.txeGet < s.ctrl.txec.count) :
    htxeState s 0 s.regs.tsAbs Locals.empty = s.midway s.regs s.ctrl (passAt .htxe 0 Locals.empty .teL0) := by
  rw [htxeState, htxeMessages, List.range_zero, List.map_nil, handed_nil, Ctrl.txeReleased_zero hget]
  rfl

/-- The next turn. -/
theorem htxeState_turn {s : State} {n : Nat} (h : s.Fresh .htxe) (hn : n < s.ctrl.txeFill)
    (hget : s.ctrl.txeGet < s.ctrl.txec.count) (htags : ∀ i < s.ctrl.txec.count, (s.eventAt i).tag.toNat < s.cfg.txd)
    (ts : Word) (loc : Locals) :
    ∃ ts' loc', ∀ l, runSteps (l + 10) (htxeState s n ts loc) = runSteps l (htxeState s (n + 1) ts' loc') := by
  have hslot : (s.ctrl.txeReleased n).txeGet < s.ctrl.txec.count := Nat.mod_lt _ (Nat.zero_lt_of_lt hget)
  have hturn := htxe_turn (r := s.regs.stamped ts) (k := s.ctrl.txeReleased n) (n := n) (loc := loc)
    (h.handed (htxeMessages s n)) ⟨rfl, rfl, rfl⟩ (Nat.sub_ne_zero_of_lt hn) (htags _ hslot)
  rw [handed_handed, eventMessage_handed, ← htxeMessages_succ, Ctrl.txeReleased_one] at hturn
  exact ⟨_, _, hturn⟩

/-- HTXE with `RX_OWN_TX` from its first step to its last. -/
theorem htxe_run {s : State} {n : Nat} (h : s.Fresh .htxe) (hown : s.cfg.rxOwnTx = true) (hn : n = s.ctrl.txeFill)
    (hget : s.ctrl.txeGet < s.ctrl.txec.count)
    (htags : ∀ i < s.ctrl.txec.count, (s.eventAt i).tag.toNat < s.cfg.txd) :
    ∃ ts, runSteps (10 * n + 1) s = .next (htxeDone s n ts) := by
  obtain ⟨ts, loc, hrun⟩ := runSteps_turns (S := htxeState s) (fun j hj => htxeState_turn h (hn ▸ hj) hget htags)
    s.regs.tsAbs Locals.empty
  rw [htxeState_zero hget] at hrun
  refine ⟨ts, ?_⟩
  rw [htxe_start h hown, Nat.add_comm, hrun]
  exact htxe_finish (h.handed _) rfl (show s.ctrl.txeFill - n = 0 by omega)

/-- Settles O43: the state after the pass, read off `htxe_run`. -/
theorem htxeDeliversOwnTransmissions : Obligations.HtxeDeliversOwnTransmissions := by
  rintro s _ n h hown rfl hn hcount - hget htags
  rw [← hcount] at hget htags
  obtain ⟨ts, hrun⟩ := htxe_run h hown hn hget htags
  have hctrl : (htxeDone s n ts).ctrl = s.ctrl.txeReleased n :=
    (ended_ctrl ..).trans (midway_ctrl (s := s.handed (htxeMessages s n)) rfl)
  refine ⟨_, _, hrun, rfl, rfl, rfl, ?_, rfl, ?_, ?_, fun _ => rfl, rfl, rfl⟩
  · rw [← hcount]
    rfl
  · rw [hctrl]
    exact Nat.sub_eq_zero_of_le hn.ge
  · rw [hctrl, ← hcount]
    rfl

end Sys2Proof.Machine
end

section
/-! PROOF. TSREC and what `Reconcile` computes (`45_timestamp.md` R322, R326, R327). The time is said once in unbounded
integers, as R322 writes it, and once for two clocks in lock, where only the age of the sample counts. -/

namespace Sys2Proof.Machine

/-! The absolute time. -/

/-- The words' own arithmetic is that of R322: nothing is lost when the product is reduced before the subtraction. -/
theorem absoluteTime_eq_ofInt (cpb t1 : Word) (now16 stored : BitVec 16) :
    absoluteTime cpb t1 now16 stored =
      BitVec.ofInt 32 ((t1.toNat : Int) - cpb.toNat * (((now16.toNat : Int) - stored.toNat) % 2 ^ 16)) := by
  have hdelta : ((now16 - stored).toNat : Int) = ((now16.toNat : Int) - stored.toNat) % 2 ^ 16 := by
    rw [BitVec.toNat_sub]
    omega
  rw [absoluteTime, ← hdelta, Int.sub_eq_add_neg, BitVec.ofInt_add, BitVec.ofInt_neg, BitVec.ofInt_mul]
  simp only [BitVec.ofInt_natCast, BitVec.ofNat_toNat, BitVec.setWidth_eq, sub_eq_add_neg]

/-- A sample less than 2^16 bit times old has its age as its difference to the counter, wrapped or not (R326). -/
theorem setWidth_ofNat_sub_eq_age {arrival age : Nat} (hage : age < 2 ^ 16) :
    (BitVec.ofNat 16 (arrival + age) - BitVec.ofNat 16 arrival).setWidth 32 = BitVec.ofNat 32 age := by
  rw [BitVec.ofNat_add, add_sub_cancel_left, BitVec.setWidth_ofNat_of_le_of_lt (by decide) hage]

/-- From bit count `arrival` to `arrival + age` a host clock in lock runs on by `cpb` ticks a bit (R327). -/
theorem lockedClock_add (cpb : Word) (off arrival age : Nat) :
    BitVec.ofNat 32 (cpb.toNat * (arrival + age) + off) =
      BitVec.ofNat 32 (cpb.toNat * arrival + off) + cpb * BitVec.ofNat 32 age := by
  rw [Nat.mul_add, Nat.add_right_comm, BitVec.ofNat_add, BitVec.ofNat_mul cpb.toNat age, BitVec.ofNat_toNat,
    BitVec.setWidth_eq]

/-- Settles O52: the ticks the host clock ran on by since the arrival are the ticks subtracted. -/
theorem reconciliationIsExactWhenClocksAreLocked : Obligations.ReconciliationIsExactWhenClocksAreLocked := by
  intro cpb off arrival now hle hlt
  obtain ⟨age, rfl⟩ := Nat.exists_eq_add_of_le hle
  rw [absoluteTime, setWidth_ofNat_sub_eq_age (by omega), lockedClock_add, add_sub_cancel_right]

/-! Step by step (R322, R324). -/

section

variable {s : State} {c : Ctx} {f : Frame} {ts : BitVec 16}

theorem tsrec_bracketEnd (h : s.At c f .tsrecS3) : exec (.tsrec ts) s = .next
    (rc3 c { f with seq := .tsrecS3 } .tsrecS1 (fun g s => complete c g (storeTimestamp g ts s)) s) := withFrame_at _ h

theorem tsrec_bracketDirty (h : s.At c f .tsrecS3) (hdirty : s.cfg.tsBracketMax < (s.clock - f.loc.t0).toNat) :
    exec (.tsrec ts) s = .next (s.moved c { f with loc := { f.loc with t1 := s.clock } } .tsrecS1) := by
  rw [tsrec_bracketEnd h]
  exact congrArg Host.Outcome.next (rc3_dirty hdirty)

theorem tsrec_bracketClean (h : s.At c f .tsrecS3) (hclean : (s.clock - f.loc.t0).toNat ≤ s.cfg.tsBracketMax) :
    exec (.tsrec ts) s = .next ((s.setRegs
      { s.regs with tsAbs := absoluteTime s.regs.cpb s.clock f.loc.now16 ts }).ended c f .ok) := by
  rw [tsrec_bracketEnd h]
  exact congrArg Host.Outcome.next (rc3_clean hclean)

end

/-- Settles O33: the rules of the labels; a clean bracket ends with the time of `absoluteTime_eq_ofInt`. -/
theorem tsrecReconciles : Obligations.TsrecReconciles := by
  intro s c f ts
  refine ⟨withFrame_at _, withFrame_at _, tsrec_bracketDirty, fun h hclean => ?_⟩
  rw [← absoluteTime_eq_ofInt]
  exact tsrec_bracketClean h hclean

end Sys2Proof.Machine
end

section
/-! PROOF. Bus health: the last-error map, RPSR and UPDERR (`46_bus_health.md` R336, R338, R343, R344). The map is a
bijection under a valid configuration because six entries that hold six classes hold none twice. -/

namespace Sys2Proof.Machine

/-! The last-error map (R338). -/

/-- Code `k + 1` counts in entry `k`. -/
theorem lecClass_of_code {cfg : Cfg} {code : BitVec 3} {k : Fin 6} (hcode : code.toNat = k + 1) :
    lecClass cfg code = some cfg.lecMap[k] := by
  rw [lecClass, hcode]
  fin_cases k <;> rfl

/-- The codes that count are those of the six entries. -/
theorem lecClass_eq_some_iff {cfg : Cfg} {code : BitVec 3} {cls : ErrClass} :
    lecClass cfg code = some cls ↔ ∃ k : Fin 6, code.toNat = k + 1 ∧ cfg.lecMap[k] = cls := by
  constructor
  · intro h
    have hcodes : ∀ code : BitVec 3, code = 0 ∨ code = 7 ∨ ∃ k : Fin 6, code.toNat = k + 1 := by decide
    obtain rfl | rfl | ⟨k, hcode⟩ := hcodes code
    · cases h
    · cases h
    · exact ⟨k, hcode, Option.some.inj ((lecClass_of_code hcode).symm.trans h)⟩
  · rintro ⟨k, hcode, rfl⟩
    exact lecClass_of_code hcode

section

variable {cfg : Cfg} (hv : cfg.valid = true)
include hv

theorem mem_lecMap (cls : ErrClass) : cls ∈ cfg.lecMap.toList := by
  simp only [Cfg.valid, Cfg.lecMapValid, Bool.and_eq_true, List.all_eq_true, List.contains_iff_mem] at hv
  obtain ⟨-, -, hmap, -⟩ := hv
  exact hmap cls (by cases cls <;> decide)

/-- Six entries that hold every class hold each once. -/
theorem lecMap_nodup : cfg.lecMap.toList.Nodup := by
  have hdistinct : [ErrClass.stuff, .form, .ack, .crc, .bit0, .bit1].Nodup := by decide
  have hperm := (hdistinct.subperm fun cls _ => mem_lecMap hv cls).perm_of_length_le (by simp)
  exact hperm.nodup_iff.mp hdistinct

theorem lecMap_injective {k k' : Fin 6} (h : cfg.lecMap[k] = cfg.lecMap[k']) : k = k' :=
  Fin.ext (((lecMap_nodup hv).getElem_inj_iff (hi := by simp) (hj := by simp)).mp h)

theorem exists_lecClass (cls : ErrClass) :
    ∃ code : BitVec 3, 1 ≤ code.toNat ∧ code.toNat ≤ 6 ∧ lecClass cfg code = some cls := by
  obtain ⟨k, hk, hcls⟩ := Vector.mem_iff_getElem.mp (Vector.mem_toList_iff.mp (mem_lecMap hv cls))
  have hcode : (BitVec.ofNat 3 (k + 1)).toNat = k + 1 := Nat.mod_eq_of_lt (by omega)
  exact ⟨BitVec.ofNat 3 (k + 1), by omega, by omega, lecClass_eq_some_iff.mpr ⟨⟨k, hk⟩, hcode, hcls⟩⟩

theorem lecClass_injective {code code' : BitVec 3} {cls : ErrClass} (h : lecClass cfg code = some cls)
    (h' : lecClass cfg code' = some cls) : code = code' := by
  obtain ⟨k, hcode, hk⟩ := lecClass_eq_some_iff.mp h
  obtain ⟨k', hcode', hk'⟩ := lecClass_eq_some_iff.mp h'
  obtain rfl := lecMap_injective hv (hk.trans hk'.symm)
  exact BitVec.eq_of_toNat_eq (hcode.trans hcode'.symm)

end

/-- Settles O35: every class stands in a valid map and none stands twice; the reference map and `health` are read off
their definitions. -/
theorem lastErrorCodesMapOntoCounters : Obligations.LastErrorCodesMapOntoCounters :=
  ⟨fun _ => ⟨rfl, rfl⟩,
    fun _ hv => ⟨exists_lecClass hv, fun _ _ _ => lecClass_injective hv⟩,
    fun e cls => ⟨get_bump e cls, fun _ => get_bump_other e⟩,
    ⟨rfl, rfl, rfl, rfl, rfl, rfl⟩,
    fun _ => rfl, rfl, rfl⟩

/-! RPSR and UPDERR, step by step. -/

/-- Settles O34: RPSR's one step is `ReadPsr`, whose count is taken apart by what the code maps to. -/
theorem rpsrDecodesStatus : Obligations.RpsrDecodesStatus := by
  rintro s c f _ h rfl
  have hstep : exec .rpsr s = .next ((psr1 s).ended c f .ok) := withFrame_at _ h
  rw [hstep, psr1_eq, countLec]
  cases lecClass s.cfg s.ctrl.psr.lec <;> rfl

/-- Settles O36: the first step is `ReadEcr` on either variant (`ecr1_clear`, `ecr1_mirror`), the second `ReadPsr`. -/
theorem upderrReadsBothRegisters : Obligations.UpderrReadsBothRegisters := by
  rintro s c f _ rfl
  have hfirst (h : s.At c f .upderrS1) : exec .upderr s = .next ((ecr1 s).moved c f .upderrS2) := withFrame_at _ h
  rw [BitVec.ofNat_toNat]
  refine ⟨fun h hclear => ?_, fun h hmirror => ?_, withFrame_at _⟩
  · rw [hfirst h, ecr1_clear hclear]
  · rw [hfirst h, ecr1_mirror hmirror]

end Sys2Proof.Machine
end

section
/-! PROOF. The invariant of CANDRV is kept by every step (`10_state.md` R41, R45, R51, `60_exceptions.md` R363). It falls
into a part about each frame and a part about the host registers; a step of an operation owes both, another agent's move
starts a frame at most. -/

namespace Sys2Proof.Machine

/-! The parts of the invariant. -/

/-- What `State.Inv` asks of the frame `f` of a context, `FCOUNT` being `fcount`. -/
structure Frame.Sound (cfg : Cfg) (fcount : Word) (c : Ctx) (f : Frame) : Prop where
  label : owns f.op f.seq = true
  crit : f.crit = f.seq.inCrit
  isOp : c = .is → isAdmitted f.op = true
  aaddRoom : c = .fg → f.seq = .aaddS1 → fcount.toNat < cfg.maxf
  aclrWas : c = .fg → f.seq = .aclrS1 ∨ f.seq = .aclrS2 → f.loc.was = true

/-- What `State.Inv` asks of both frames. -/
def State.FramesSound (s : State) : Prop := ∀ c f, s.frame c = some f → f.Sound s.cfg s.regs.fcount c

/-- What `State.Inv` asks of the host registers. -/
structure HostRegs.Sound (cfg : Cfg) (r : HostRegs) : Prop where
  fcountMax : r.fcount.toNat ≤ cfg.maxf
  healthView : r.cstate.health = healthOf r.cstate.warning r.cstate.busOff
  devBound : r.cstate.dev.toNat < cfg.numDev

theorem State.inv_iff (s : State) :
    s.Inv ↔ s.cfg.valid = true ∧ Memory.wf s.mem = true ∧ s.FramesSound ∧ s.regs.Sound s.cfg := by
  constructor
  · intro h
    refine ⟨h.validCfg, h.memory, fun c f hf => ⟨h.labels c f hf, h.crits c f hf, ?_, ?_, ?_⟩,
      h.fcountMax, h.healthView, h.devBound⟩ <;> rintro rfl
    · exact h.isOps f hf
    · exact h.aaddRoom f hf
    · exact h.aclrWas f hf
  · rintro ⟨hv, hm, hframes, hregs⟩
    exact
      { validCfg := hv
        memory := hm
        labels := fun c f hf => (hframes c f hf).label
        crits := fun c f hf => (hframes c f hf).crit
        isOps := fun f hf => (hframes .is f hf).isOp rfl
        fcountMax := hregs.fcountMax
        aaddRoom := fun f hf => (hframes .fg f hf).aaddRoom rfl
        aclrWas := fun f hf => (hframes .fg f hf).aclrWas rfl
        healthView := hregs.healthView
        devBound := hregs.devBound }

/-- A new frame is at its operation's first label, outside every section (R161). -/
theorem Frame.Sound.start {cfg : Cfg} {fcount : Word} {c : Ctx} {i : Instr} (hi : c = .is → isAdmitted i = true) :
    (Frame.start i).Sound cfg fcount c := by
  cases i <;> exact ⟨rfl, rfl, hi, nofun, nofun⟩

theorem maxf_bounds {cfg : Cfg} (h : cfg.valid = true) : 1 ≤ cfg.maxf ∧ cfg.maxf ≤ 128 := by
  simp only [Cfg.valid, Cfg.rangesValid, Bool.and_eq_true, decide_eq_true_eq] at h
  omega

theorem numDev_pos {cfg : Cfg} (h : cfg.valid = true) : 1 ≤ cfg.numDev := by
  simp only [Cfg.valid, Cfg.rangesValid, Bool.and_eq_true, decide_eq_true_eq] at h
  omega

/-! A step of an operation. -/

section

variable {i : Instr} {s t : State} {c : Ctx} {f : Frame}

theorem execAclr_fcount (hc : s.current = some (c, f)) (h : execAclr s = .next t) :
    t.regs.fcount = s.regs.fcount ∨ t.regs.fcount = 0 := by
  rw [execAclr, withFrame_current hc] at h
  split at h <;> cases h
  -- `S3.0` may clear `enabled` first, `S4` clears the count.
  case h_4 =>
    simp only [goto_regs, zeroFilterWord, memWrite_regs]
    split <;> exact .inl rfl
  case h_5 => split <;> simp
  all_goals simp [dis1, dis2]

theorem execAadd_fcount {id mask : BitVec 11} (hc : s.current = some (c, f)) (h : execAadd id mask s = .next t) :
    t.regs.fcount = s.regs.fcount ∨ f.seq = .aaddS1 ∧ t.regs.fcount = s.regs.fcount + 1 := by
  rw [execAadd, withFrame_current hc] at h
  split at h <;> cases h
  · split <;> simp
  · next hl => exact .inr ⟨hl, by simp⟩

/-- Only INIT, ACLR and AADD touch `FCOUNT`, and INIT clears it (R193). -/
theorem RegEffect.fcount_cases {l : Label} {r : HostRegs} (h : RegEffect i l s r) :
    r.fcount = s.regs.fcount ∨ r.fcount = 0 ∨ i = .aclr ∨ ∃ id mask, i = .aadd id mask := by
  cases h with
  | bind => exact .inr (.inl rfl)
  | filtersCounted n hi => exact .inr (.inr hi)
  | enabled => exact .inl (by simp)
  | countersRead =>
    obtain ⟨k, recv, tec, errLog, he⟩ := ecr1_fields s
    exact .inl (by simp [he])
  | keep | disabled | solved | retimed | stamped | received | statusRead => exact .inl rfl

/-- `FCOUNT` after a step: kept, cleared, or one more by an AADD past its check (R51). -/
theorem exec_fcount (hc : s.current = some (c, f)) (h : exec i s = .next t) :
    t.regs.fcount = s.regs.fcount ∨ t.regs.fcount = 0 ∨ f.seq = .aaddS1 ∧ t.regs.fcount = s.regs.fcount + 1 := by
  rcases (exec_effect hc h).regs.fcount_cases with he | he | rfl | ⟨id, mask, rfl⟩
  · exact .inl he
  · exact .inr (.inl he)
  · exact (execAclr_fcount hc h).imp_right .inl
  · exact (execAadd_fcount hc h).imp_right .inr

/-- No operation that `CMD_IS` admits touches `FCOUNT` (R51, R156). -/
theorem exec_fcount_is (hi : isAdmitted i = true) (h : exec i s = .next t) : t.regs.fcount = s.regs.fcount := by
  have hne (j : Instr) (hj : isAdmitted j = false) : i ≠ j := by
    rintro rfl
    simp [hi] at hj
  obtain ⟨-, -, -, -, hkeep, -⟩ := registersHaveFixedWriters s t i h
  exact hkeep (fun _ => hne _ rfl) (hne _ rfl) (fun _ _ => hne _ rfl)

theorem eq_of_frame_goto {u : State} {g : Frame} {l : Label} (h : (goto c f l u).frame c = some g) :
    g = { f with seq := l } := by
  rw [frame_goto_same] at h
  exact (Option.some.inj h).symm

theorem frame_complete_ne {u : State} {g : Frame} : (complete c f u).frame c ≠ some g := by
  rw [complete, frame_finish_same]
  nofun

/-- An ACLR takes its `MODE` steps only from a check that found `enabled` set (R252). -/
theorem execAclr_was {g : Frame} (hc : s.current = some (c, f)) (h : execAclr s = .next t) (hg : t.frame c = some g)
    (hwas : f.seq = .aclrS1 ∨ f.seq = .aclrS2 → f.loc.was = true) (hseq : g.seq = .aclrS1 ∨ g.seq = .aclrS2) :
    g.loc.was = true := by
  rw [execAclr, withFrame_current hc] at h
  split at h <;> cases h
  · obtain rfl := eq_of_frame_goto hg
    dsimp only at hseq ⊢
    split at hseq
    · assumption
    · simp at hseq
  · next hl =>
    obtain rfl := eq_of_frame_goto hg
    exact hwas (.inl hl)
  · obtain rfl := eq_of_frame_goto hg
    simp at hseq
  · obtain rfl := eq_of_frame_goto hg
    dsimp only at hseq
    split at hseq <;> simp at hseq
  · split at hg
    · obtain rfl := eq_of_frame_goto hg
      simp at hseq
    · exact absurd hg frame_complete_ne
  · exact absurd hg frame_complete_ne

theorem owns_aclr {l : Label} (hl : l = .aclrS1 ∨ l = .aclrS2) : owns i l = true ↔ i = .aclr := by
  rcases hl with rfl | rfl <;> cases i <;> simp [owns, Label.isDrain]

theorem owns_aaddS1 (h : owns i .aaddS1 = true) : isAdmitted i = false := by
  cases i <;> simp [owns, Label.isDrain, isAdmitted] at h ⊢

/-- The stepping frame, after its step. -/
theorem exec_sound_own {g : Frame} (hc : s.current = some (c, f)) (h : exec f.op s = .next t)
    (hf : f.Sound s.cfg s.regs.fcount c) (hg : t.frame c = some g) : g.Sound s.cfg t.regs.fcount c := by
  obtain ⟨hop, howns, hcrit⟩ := exec_frame hc h hg
  refine ⟨hop ▸ howns, hcrit hf.crit, hop ▸ hf.isOp, fun _ hseq => ?_, fun hfg hseq => ?_⟩
  · obtain ⟨c', f', hc', -, hend | hgoon⟩ := exec_shape h <;> obtain ⟨rfl, rfl⟩ := by simpa [hc] using hc'
    · obtain ⟨u, g', e, rfl, -⟩ := hend
      simp [frame_finish_same] at hg
    · obtain ⟨u, g', l, rfl, -, -, -, -, -, hroom⟩ := hgoon
      obtain rfl := eq_of_frame_goto hg
      rw [goto_regs]
      exact hroom hseq
  · have haclr : f.op = .aclr := (owns_aclr hseq).mp howns
    rw [haclr] at h
    exact execAclr_was hc h hg (hf.aclrWas hfg) hseq

/-- The frame of the other context: an IS step keeps `FCOUNT`, and no FG step matters to an IS frame. -/
theorem exec_sound_other {d : Ctx} {g : Frame} (hc : s.current = some (c, f)) (h : exec f.op s = .next t)
    (hf : f.Sound s.cfg s.regs.fcount c) (hd : d ≠ c) (hg : g.Sound s.cfg s.regs.fcount d) :
    g.Sound s.cfg t.regs.fcount d := by
  refine { hg with aaddRoom := fun hfg => ?_ }
  have hc' : c = .is := by cases c <;> simp_all
  rw [exec_fcount_is (hf.isOp hc') h]
  exact hg.aaddRoom hfg

theorem exec_framesSound (hc : s.current = some (c, f)) (h : exec f.op s = .next t) (hcfg : t.cfg = s.cfg)
    (hs : s.FramesSound) : t.FramesSound := by
  have hf := hs c f (current_some hc).2
  intro d g hg
  rw [hcfg]
  by_cases hd : d = c
  · subst hd
    exact exec_sound_own hc h hf hg
  · have hgs : s.frame d = some g := by rw [← hg, State.frame, State.frame, exec_port_other hc h hd]
    exact exec_sound_other hc h hf hd (hs d g hgs)

/-- `CSTATE` after a step keeps its view of the bus health and names an existing controller. -/
theorem RegEffect.cstate_sound {l : Label} {r : HostRegs} (h : RegEffect i l s r) (hs : s.regs.Sound s.cfg) :
    r.cstate.health = healthOf r.cstate.warning r.cstate.busOff ∧ r.cstate.dev.toNat < s.cfg.numDev := by
  have hkeep := And.intro hs.healthView hs.devBound
  cases h with
  | bind dev hdev => exact ⟨rfl, hdev⟩
  | enabled => simpa using hkeep
  | statusRead => exact ⟨rfl, hs.devBound⟩
  | countersRead =>
    obtain ⟨k, recv, tec, errLog, he⟩ := ecr1_fields s
    simpa [he] using hkeep
  | keep | disabled | solved | retimed | filtersCounted | stamped | received => exact hkeep

theorem exec_regsSound (hv : s.cfg.valid = true) (hc : s.current = some (c, f)) (h : exec f.op s = .next t)
    (hf : f.Sound s.cfg s.regs.fcount c) (hs : s.regs.Sound s.cfg) : t.regs.Sound s.cfg := by
  obtain ⟨hhealth, hdev⟩ := (exec_effect hc h).regs.cstate_sound hs
  refine ⟨?_, hhealth, hdev⟩
  have hmax := hs.fcountMax
  rcases exec_fcount hc h with he | he | ⟨hseq, he⟩ <;> rw [he]
  · exact hmax
  · exact Nat.zero_le _
  · have hfg : c = .fg := by
      cases c with
      | fg => rfl
      | is => cases (hf.isOp rfl).symm.trans (owns_aaddS1 (hseq ▸ hf.label))
    have hroom := hf.aaddRoom hfg hseq
    obtain ⟨-, hmaxf⟩ := maxf_bounds hv
    rw [BitVec.toNat_add_of_lt (by simp; omega)]
    simpa using hroom

theorem storedMem_wf (hm : Memory.wf s.mem = true) : Memory.wf (storedMem s f) = true := by
  unfold storedMem
  split
  · exact Memory.storeWord_wf _ _ hm
  · exact hm

/-- A step of an operation goes on and keeps the invariant. -/
theorem exec_inv (hs : s.Inv) (hc : s.current = some (c, f)) : ∃ t, exec f.op s = .next t ∧ t.Inv ∧ t.cfg = s.cfg := by
  obtain ⟨hv, hm, hframes, hregs⟩ := s.inv_iff.mp hs
  have hf := hframes c f (current_some hc).2
  obtain ⟨t, h⟩ := exec_answers hc hf.label
  obtain ⟨-, -, hcfg, -⟩ := collaboratorsSeeOneCallAStep s t f.op h
  refine ⟨t, h, t.inv_iff.mpr ⟨hcfg ▸ hv, ?_, exec_framesSound hc h hcfg hframes, ?_⟩, hcfg⟩
  · rw [(exec_effect hc h).mem]
    exact storedMem_wf hm
  · rw [hcfg]
    exact exec_regsSound hv hc h hf hregs

end

/-! Another agent's move. -/

theorem accept_frame {s : State} {c : Ctx} {f : Frame} {w : Word} (hidle : s.frame c = none)
    (h : (accept c w s).frame c = some f) : ∃ i, f = Frame.start i ∧ (c = .is → isAdmitted i = true) := by
  rw [State.frame] at hidle
  rcases accept_cases c w s with ⟨e, -, he⟩ | ⟨i, -, -, -, he⟩ | ⟨i, -, -, -, -, he⟩ | ⟨i, -, hi, -, he⟩ <;>
    rw [he] at h
  case inr.inr.inr =>
    rw [startCommand, frame_setFrame_same] at h
    exact ⟨i, (Option.some.inj h).symm, hi⟩
  all_goals simp [refuseCommand, latchCommand, State.frame, hidle] at h

/-- On a port without a frame, another agent's move starts one by a submission at most (R160). -/
theorem agentMove_frame_start {s : State} {m : Turn} {c : Ctx} {f : Frame} (hs : s.frame c = none)
    (h : (agentMove m s).frame c = some f) : ∃ i, f = Frame.start i ∧ (c = .is → isAdmitted i = true) := by
  have kept {u : State} (hport : u.port c = s.port c) : u.frame c ≠ some f := by
    rw [State.frame, hport, ← State.frame, hs]
    nofun
  cases m with
  | hostWrite off bytes v =>
    rw [agentMove] at h
    rcases hostWrite_shape s off bytes v with ⟨d, he⟩ | ⟨_, _, _, _, he⟩ | he <;> rw [he] at h
    · by_cases hd : c = d
      · subst hd
        rw [submit_idle v hs] at h
        exact accept_frame hs h
      · obtain ⟨p, hp⟩ := submit_shape d v s
        exact absurd h (kept (by rw [hp, port_setPort_other s p hd]))
    · exact absurd h (kept (port_setRegs ..))
    · exact absurd h (kept rfl)
  | ctrl d e =>
    obtain ⟨k, mem, he⟩ := controllerStep_shape s d e
    rw [agentMove, he] at h
    exact absurd h (kept (by cases c <;> rfl))
  | seq | source | clock => exact absurd h (kept (by cases c <;> rfl))
  | reset => cases c <;> cases h

theorem agentMove_reset_frame (s : State) (c : Ctx) : (agentMove .reset s).frame c = none := by cases c <;> rfl

/-- A frame after another agent's move was there before, or is a new one, on `CMD_IS` of an operation it admits. -/
theorem agentMove_frame_cases {s : State} {m : Turn} {c : Ctx} {f : Frame} (hm : m ≠ .reset)
    (h : (agentMove m s).frame c = some f) :
    s.frame c = some f ∨ ∃ i, f = Frame.start i ∧ (c = .is → isAdmitted i = true) := by
  cases hs : s.frame c with
  | none => exact .inr (agentMove_frame_start hs h)
  | some g =>
    rw [agentMove_frame hm hs] at h
    exact .inl h

theorem agentMove_framesSound {s : State} {m : Turn} (hm : m ≠ .reset) (hcfg : (agentMove m s).cfg = s.cfg)
    (hs : s.FramesSound) : (agentMove m s).FramesSound := by
  obtain ⟨_, _, _, _, hregs⟩ := agentMove_regs s hm
  intro c f hf
  rw [hcfg, hregs]
  rcases agentMove_frame_cases hm hf with hold | ⟨i, rfl, hi⟩
  · exact hs c f hold
  · exact .start hi

section

variable {cfg : Cfg} {mem : Memory} {k : Ctrl} (hm : Memory.wf mem = true)
include hm

theorem storeRxWord_wf (f : BusFrame) (ts : BitVec 16) (i w : Nat) :
    Memory.wf (storeRxWord cfg mem k f ts i w) = true := Memory.storeWord_wf _ _ hm

theorem storeRxSlot_wf (f : BusFrame) (ts : BitVec 16) (i : Nat) : Memory.wf (storeRxSlot cfg mem k f ts i) = true :=
  storeRxWord_wf (storeRxWord_wf (storeRxWord_wf (storeRxWord_wf hm f ts i 0) f ts i 1) f ts i 2) f ts i 3

theorem storeEvent_wf (slot i : Nat) (junk0 junk1 : Word) :
    Memory.wf (storeEvent cfg mem k slot i junk0 junk1) = true :=
  Memory.storeWord_wf _ _ (Memory.storeWord_wf _ _ hm)

end

/-- A controller's own step stores whole words at most. -/
theorem controllerStep_wf {s : State} (hm : Memory.wf s.mem = true) (d : BitVec 8) (e : CtrlEvent) :
    Memory.wf (controllerStep s d e).mem = true := by
  unfold controllerStep
  split
  case isFalse => exact hm
  cases e with
  | rxWord w =>
    dsimp only [receiveWord]
    split
    · exact storeRxWord_wf hm _ _ _ _
    · exact hm
  | rxStore =>
    dsimp only
    rcases deliver_cases s d with he | ⟨f, ts, rest, -, -, ⟨i, -, he⟩ | ⟨-, he⟩⟩ <;> rw [he]
    · exact hm
    · dsimp only
      exact storeRxSlot_wf hm f ts i
    · exact hm
  | txDone junk0 junk1 =>
    dsimp only [transmit]
    split
    · split
      · exact storeEvent_wf hm _ _ _ _
      · exact hm
    · exact hm
  | _ => exact hm

theorem submit_mem (c : Ctx) (w : Word) (s : State) : (submit c w s).mem = s.mem := by
  obtain ⟨p, hp⟩ := submit_shape c w s
  rw [hp, setPort_mem]

theorem agentMove_wf {s : State} (hm : Memory.wf s.mem = true) (m : Turn) : Memory.wf (agentMove m s).mem = true := by
  cases m with
  | hostWrite off bytes v =>
    rw [agentMove]
    rcases hostWrite_shape s off bytes v with ⟨c, he⟩ | ⟨_, _, _, _, he⟩ | he <;> rw [he]
    · rwa [submit_mem]
    · exact hm
    · exact hm
  | ctrl d e => exact controllerStep_wf hm d e
  | seq | source | clock | reset => exact hm

theorem agentMove_cfg (m : Turn) (s : State) : (agentMove m s).cfg = s.cfg := by
  cases m with
  | hostWrite off bytes v =>
    rw [agentMove]
    rcases hostWrite_shape s off bytes v with ⟨c, he⟩ | ⟨_, _, _, _, he⟩ | he <;> rw [he]
    · obtain ⟨p, hp⟩ := submit_shape c v s
      rw [hp, setPort_cfg]
    · rfl
  | ctrl d e =>
    obtain ⟨k, mem, he⟩ := controllerStep_shape s d e
    rw [agentMove, he]
    rfl
  | seq | source | clock | reset => rfl

/-- The host registers at reset (R401). -/
theorem HostRegs.Sound.reset {cfg : Cfg} (hv : cfg.valid = true) : (HostRegs.reset cfg).Sound cfg :=
  ⟨Nat.zero_le _, rfl, numDev_pos hv⟩

theorem agentMove_inv {s : State} (hs : s.Inv) (m : Turn) : (agentMove m s).Inv := by
  obtain ⟨hv, hm, hframes, hregs⟩ := s.inv_iff.mp hs
  have hcfg := agentMove_cfg m s
  rw [State.inv_iff, hcfg]
  refine ⟨hv, agentMove_wf hm m, ?_⟩
  by_cases hreset : m = .reset
  · subst hreset
    exact ⟨fun c f hf => by simp [agentMove_reset_frame] at hf, .reset hv⟩
  · obtain ⟨_, _, _, _, he⟩ := agentMove_regs s hreset
    refine ⟨agentMove_framesSound hreset hcfg hframes, ?_⟩
    rw [he]
    exact ⟨hregs.fcountMax, hregs.healthView, hregs.devBound⟩

theorem sequencerStep_inv {s : State} (hs : s.Inv) : ∃ t, sequencerStep s = .next t ∧ t.Inv ∧ t.cfg = s.cfg := by
  cases hc : s.current with
  | none => exact ⟨s, by rw [sequencerStep, hc], hs, rfl⟩
  | some p =>
    rw [sequencerStep_current hc]
    exact exec_inv hs hc

/-- Settles O45: the step is the sequencer's or another agent's move, on a state that meets the invariant since `sched` is no
part of it. -/
theorem everyStepGoesOnAndKeepsTheInvariant : Obligations.EveryStepGoesOnAndKeepsTheInvariant := by
  intro s hs
  have hnext : ({ s with sched := s.sched.tail } : State).Inv := { hs with }
  rcases step_cases hs.validCfg with ⟨-, he⟩ | ⟨-, he⟩ <;> rw [he, nextMove_snd]
  · exact sequencerStep_inv hnext
  · exact ⟨_, rfl, agentMove_inv hnext _, agentMove_cfg ..⟩

end Sys2Proof.Machine
end

section
/-! PROOF. Reset (`70_reset_and_hazards.md` R400 to R403): the pulse, the register values it leaves, and the invariants right
after it. -/

namespace Sys2Proof.Machine

/-- Every host register but the two defaults and the offsets of the zones reads 0 at reset (R401). -/
theorem hostReg_reset_other {off : Nat} (h : off ∉ [0x18, 0x1C, 0x6C, 0x70, 0x74]) : hostReg State.reset off = 0 := by
  unfold hostReg
  split
  case h_7 | h_8 | h_28 | h_29 | h_30 => simp at h
  all_goals rfl

theorem hostRead_reset (off : Nat) :
    hostRead State.reset off 4 =
      if off = 0x18 then 875 else if off = 0x1C then 125 else if off = 0x6C then 0x10 else if off = 0x70 then 0x50
      else if off = 0x74 then 0x70 else 0 := by
  split_ifs
  case neg => rw [hostRead, hostReg_reset_other (by simp [*]), ite_self]
  all_goals subst off; rfl

/-- Settles O56: the pulse writes the constants of R401; without a frame no port asks for its section. -/
theorem resetPulseResetsCandrvAlone : Obligations.ResetPulseResetsCandrvAlone :=
  ⟨fun _ => rfl, fun _ => rfl, hostRead_reset⟩

theorem resetWith_ctrlAt (cfg : Cfg) (d : BitVec 8) : (State.resetWith cfg).ctrlAt d = Ctrl.powerOn := by
  simp [State.resetWith, State.ctrlAt]

theorem Ctrl.InRange.powerOn : Ctrl.powerOn.InRange := by
  constructor <;> simp [Ctrl.powerOn]

/-- Right after reset there is no frame. -/
theorem State.Inv.resetWith {cfg : Cfg} (hv : cfg.valid = true) : (State.resetWith cfg).Inv :=
  (State.inv_iff _).mpr ⟨hv, rfl, fun c _ hf => (by cases c <;> cases hf), .reset hv⟩

/-- Settles O44: after reset there is no frame, every controller is as powered on, and `enabled` is clear. -/
theorem invariantsHoldAtReset : Obligations.InvariantsHoldAtReset :=
  ⟨.resetWith (by decide), fun d => resetWith_ctrlAt Cfg.reference d ▸ .powerOn, nofun⟩

end Sys2Proof.Machine
end

section
/-! PROOF. `CSTATE.enabled` means the bound controller is out of initialisation mode, but while a `Disable` is under way
(`60_exceptions.md` R380, `40_lifecycle.md` R195, R198). A state meets this for one of three reasons, or because the step
touched neither `enabled` nor `MODE`. -/

namespace Sys2Proof.Machine

namespace State.EnabledMeansOnBus

variable {s t : State}

theorem of_disabled (h : t.regs.cstate.enabled = false) : t.EnabledMeansOnBus := fun he => by simp [h] at he

theorem of_disabling (h : t.disabling = true) : t.EnabledMeansOnBus := fun _ hd => by simp [h] at hd

theorem of_onBus (h : t.ctrl.mode.init = false) : t.EnabledMeansOnBus := fun _ _ => h

/-- A step that touches neither, and ends no `Disable`. -/
theorem kept (h : s.EnabledMeansOnBus) (hd : t.disabling = false → s.disabling = false)
    (he : t.regs.cstate.enabled = s.regs.cstate.enabled) (hm : t.ctrl.mode = s.ctrl.mode) : t.EnabledMeansOnBus :=
  fun hen hdis => hm ▸ h (he ▸ hen) (hd hdis)

end State.EnabledMeansOnBus

/-! The parts of a step. -/

@[simp] theorem goto_ctrl (c : Ctx) (f : Frame) (l : Label) (s : State) : (goto c f l s).ctrl = s.ctrl := ctrl_setPort ..

@[simp] theorem finish_ctrl (c : Ctx) (f : Frame) (e : ResultCode) (s : State) : (finish c f e s).ctrl = s.ctrl :=
  ctrl_setPort ..

/-- Only a write to `MODE` changes it (R60). -/
theorem devWrite_mode {w : DevWrite} (hw : ∀ r, w ≠ .mode r) (s : State) : (devWrite w s).ctrl.mode = s.ctrl.mode := by
  have hk := devWrite_written w s
  generalize (devWrite w s).ctrl = k at hk ⊢
  cases hk with
  | mode r => exact absurd rfl (hw r)
  | _ => rfl

@[simp] theorem wbt2_mode (s : State) : (wbt2 s).ctrl.mode = s.ctrl.mode := devWrite_mode (w := .btr _) nofun s

@[simp] theorem zeroFilterWord_ctrl (k : Nat) (s : State) : (zeroFilterWord k s).ctrl = s.ctrl := rfl

theorem en1_onBus (s : State) : (en1 s).ctrl.mode.init = false := by
  have hctrl : (en1 s).ctrl = (devWrite (.mode { init := false, cce := false, fd := false }) s).ctrl := ctrl_setRegs _ _ rfl
  rw [hctrl, devWrite, ctrl_setCtrl]
  rfl

namespace State.EnabledMeansOnBus

variable {s u : State} {c : Ctx} {g : Frame} (hs : s.EnabledMeansOnBus) (hd : s.disabling = false)
  (he : u.regs.cstate.enabled = s.regs.cstate.enabled) (hm : u.ctrl.mode = s.ctrl.mode)
include hs hd he hm

/-- A step outside every `Disable` that touches neither `enabled` nor `MODE`. -/
theorem goto {l : Label} : (goto c g l u).EnabledMeansOnBus :=
  hs.kept (fun _ => hd) (by simpa using he) (by simpa using hm)

theorem finish {e : ResultCode} : (finish c g e u).EnabledMeansOnBus :=
  hs.kept (fun _ => hd) (by simpa using he) (by simpa using hm)

end State.EnabledMeansOnBus

/-! The operations that write `MODE`, label by label. -/

section

variable {s t : State} {f : Frame} (hs : s.EnabledMeansOnBus) (hc : s.current = some (.fg, f))
include hs hc

theorem execInit_enabledMeansOnBus {dev : BitVec 8} (h : execInit dev s = .next t) : t.EnabledMeansOnBus := by
  have hf : s.fgPort.frame = some f := (current_some hc).2
  rw [execInit, withFrame_current hc] at h
  split at h
  case h_1 hl =>
    split at h <;> cases h
    · exact hs.finish (by simp [State.disabling, hf, hl]) rfl rfl
    · exact .of_disabled rfl
  all_goals cases h
  -- `S1` and `S2` are the `MODE` writes of `Disable`, `S3` clears `enabled`, `S13` goes back on the bus.
  case h_2 | h_3 => exact .of_disabling rfl
  case h_4 => exact .of_disabled rfl
  case h_14 => exact .of_onBus (by simp [complete, en1_onBus])
  all_goals exact hs.goto (by simp [State.disabling, *]) (by simp [wbt2, zeroFilterWord]) (by simp [devWrite_mode])

omit hs in
theorem execDisable_enabledMeansOnBus (h : execDisable s = .next t) : t.EnabledMeansOnBus := by
  rw [execDisable, withFrame_current hc] at h
  split at h <;> cases h
  · exact .of_disabling rfl
  · exact .of_disabled rfl

omit hs in
theorem execEnable_enabledMeansOnBus (h : execEnable s = .next t) : t.EnabledMeansOnBus := by
  rw [execEnable, withFrame_current hc] at h
  split at h <;> cases h
  exact .of_onBus (by simp [complete, en1_onBus])

theorem execSetspeed_enabledMeansOnBus (h : execSetspeed s = .next t) : t.EnabledMeansOnBus := by
  have hf : s.fgPort.frame = some f := (current_some hc).2
  rw [execSetspeed, withFrame_current hc] at h
  split at h <;> cases h
  · exact hs.goto (by simp [State.disabling, *]) rfl rfl
  · exact .of_disabling rfl
  · exact .of_disabling rfl
  · exact .of_disabled rfl
  · exact hs.goto (by simp [State.disabling, *]) (by simp [wbt2]) (wbt2_mode s)
  · split
    · exact .of_onBus (by simp [complete, en1_onBus])
    · exact hs.finish (by simp [State.disabling, *]) rfl rfl

theorem execAclr_enabledMeansOnBus (hwas : f.seq = .aclrS2 → f.loc.was = true) (h : execAclr s = .next t) :
    t.EnabledMeansOnBus := by
  have hf : s.fgPort.frame = some f := (current_some hc).2
  rw [execAclr, withFrame_current hc] at h
  split at h <;> cases h
  · exact hs.goto (by simp [State.disabling, *]) rfl rfl
  · exact .of_disabling rfl
  · next hl => exact .of_disabling (hwas hl)
  case h_4.refl k hl =>
    by_cases hfirst : k = 0 ∧ f.loc.was = true
    · rw [if_pos hfirst]
      exact .of_disabled (by simp [zeroFilterWord])
    · rw [if_neg hfirst]
      refine hs.goto ?_ (by rfl) (by rfl)
      cases k <;> simp_all [State.disabling]
  · split
    · exact hs.goto (by simp [State.disabling, *]) (by rfl) (by rfl)
    · exact hs.finish (by simp [State.disabling, *]) (by rfl) (by rfl)
  · exact .of_onBus (by simp [complete, en1_onBus])

end

/-! The other operations. -/

/-- The operations that inline `Disable` or `Enable` (R195, R198). -/
def writesMode : Instr → Bool
  | .init _ | .disable | .enable | .setspeed | .aclr => true
  | .nop | .solve | .aadd _ _ | .htx | .hrx | .htxe | .tsrec _ | .rpsr | .upderr => false

theorem writesMode_of_isAdmitted {i : Instr} (h : isAdmitted i = true) : writesMode i = false := by
  cases i <;> simp [isAdmitted, writesMode] at h ⊢

/-- The labels between the first `MODE` write of `Disable` and the step that clears `enabled` (R195); ACLR passes its last
one also without a `Disable`. -/
def Label.inDisable : Label → Bool
  | .initS2 | .initS3 | .disableS2 | .setspeedS2 | .setspeedS3 | .aclrS2 | .aclrS3 _ => true
  | _ => false

theorem owns_inDisable {i : Instr} {l : Label} (hl : l.inDisable = true) (h : owns i l = true) : writesMode i = true := by
  cases l with
  | initS2 | initS3 | disableS2 | setspeedS2 | setspeedS3 | aclrS2 | aclrS3 k =>
    cases i <;> simp [owns, Label.isDrain, writesMode] at h ⊢
  | _ => cases hl

theorem inDisable_of_disabling {s : State} {f : Frame} (hf : s.fgPort.frame = some f) (h : s.disabling = true) :
    f.seq.inDisable = true := by
  rw [State.disabling, hf] at h
  dsimp only at h
  split at h <;> simp_all [Label.inDisable]

theorem exec_keeps_lifecycle {i : Instr} {s t : State} (hi : writesMode i = false) (h : exec i s = .next t) :
    t.regs.cstate.enabled = s.regs.cstate.enabled ∧ t.ctrl.mode = s.ctrl.mode := by
  have hne (j : Instr) (hj : writesMode j = true) : i ≠ j := by
    rintro rfl
    simp [hi] at hj
  obtain ⟨-, -, -, -, -, -, -, -, hbound, henabled⟩ := registersHaveFixedWriters s t i h
  obtain ⟨-, hat⟩ := deviceRegistersHaveFixedWriters s t i h
  obtain ⟨-, -, -, hmode, -⟩ := hat _ _ rfl rfl
  obtain ⟨-, hdev⟩ := hbound fun _ => hne _ rfl
  refine ⟨henabled (fun _ => hne _ rfl) (hne _ rfl) (hne _ rfl) (hne _ rfl) (hne _ rfl), ?_⟩
  rw [State.ctrl, hdev]
  exact hmode (fun _ => hne _ rfl) (hne _ rfl) (hne _ rfl) (hne _ rfl) (hne _ rfl)

theorem exec_enabledMeansOnBus {s t : State} {c : Ctx} {f : Frame} (hinv : s.Inv) (hs : s.EnabledMeansOnBus)
    (hc : s.current = some (c, f)) (h : exec f.op s = .next t) : t.EnabledMeansOnBus := by
  have hf := (current_some hc).2
  cases c with
  | is =>
    obtain ⟨henabled, hmode⟩ := exec_keeps_lifecycle (writesMode_of_isAdmitted (hinv.isOps f hf)) h
    have hport : t.fgPort = s.fgPort := exec_port_other (d := .fg) hc h nofun
    exact hs.kept (by simp [State.disabling, hport]) henabled hmode
  | fg =>
    have quiet (hi : writesMode f.op = false) : t.EnabledMeansOnBus := by
      obtain ⟨henabled, hmode⟩ := exec_keeps_lifecycle hi h
      refine hs.kept (fun _ => Bool.eq_false_iff.mpr fun hdis => ?_) henabled hmode
      simp [owns_inDisable (inDisable_of_disabling hf hdis) (hinv.labels .fg f hf)] at hi
    have step {i : Instr} (hop : f.op = i) : exec i s = .next t := hop ▸ h
    cases hop : f.op with
    | init dev => exact execInit_enabledMeansOnBus hs hc (step hop)
    | disable => exact execDisable_enabledMeansOnBus hc (step hop)
    | enable => exact execEnable_enabledMeansOnBus hc (step hop)
    | setspeed => exact execSetspeed_enabledMeansOnBus hs hc (step hop)
    | aclr => exact execAclr_enabledMeansOnBus hs hc (fun hl => hinv.aclrWas f hf (.inr hl)) (step hop)
    | _ => exact quiet (by rw [hop]; rfl)

/-! Another agent's move. -/

theorem Ctrl.react_mode {e : CtrlEvent} (he : ∀ r, e ≠ .outsideMode r) (cfg : Cfg) (mem : Memory) (k : Ctrl) :
    (k.react cfg mem e).mode = k.mode := by
  cases e with
  | outsideMode r => exact absurd rfl (he r)
  | arrive f =>
    rw [react]
    rcases Ctrl.receive_cases cfg mem k f with ⟨-, h⟩ | ⟨-, -, h⟩ | ⟨-, -, -, h⟩ <;> rw [h] <;> rfl
  | txSend slot | lec code | stoppedCount v | ecrRead =>
    dsimp only [react, send, ecrTaken]
    split <;> rfl
  | dropRequest slot =>
    dsimp only [react]
    split
    · rw [Ctrl.settled_eq]
    · rfl
  | _ => rfl

theorem Ctrl.afterArrival_mode (k : Ctrl) (f : BusFrame) : (k.afterArrival f).mode = k.mode := by
  unfold afterArrival
  split <;> rfl

/-- No move of a controller but an outside writer's touches `MODE` (R131, R415). -/
theorem controllerStep_mode {e : CtrlEvent} (he : ∀ r, e ≠ .outsideMode r) (s : State) (d : BitVec 8) :
    ((controllerStep s d e).ctrlAt d).mode = (s.ctrlAt d).mode := by
  have reached {k : Ctrl} (m : Memory) (hk : k.mode = (s.ctrlAt d).mode) :
      (((s.setCtrlAt d k).setMem m).ctrlAt d).mode = (s.ctrlAt d).mode :=
    (congrArg Ctrl.mode (ctrlAt_setCtrlAt_same s d k)).trans hk
  unfold controllerStep
  split
  case isFalse => rfl
  cases e with
  | outsideMode r => exact absurd rfl (he r)
  | rxWord w =>
    dsimp only [receiveWord]
    split <;> rfl
  | rxStore =>
    dsimp only
    rcases deliver_cases s d with h | ⟨f, ts, rest, -, -, ⟨i, -, h⟩ | ⟨-, h⟩⟩ <;> rw [h]
    · exact reached _ (Ctrl.afterArrival_mode _ f)
    · exact reached s.mem rfl
  | txDone junk0 junk1 =>
    dsimp only [transmit]
    split
    · rw [Ctrl.settled_eq]
      split
      · exact reached _ rfl
      · exact reached s.mem rfl
    · rfl
  | _ => exact reached s.mem (Ctrl.react_mode he ..)

theorem agentMove_ctrlAt_mode {m : Turn} (hm : ∀ d r, m ≠ .ctrl d (.outsideMode r)) (s : State) (d : BitVec 8) :
    ((agentMove m s).ctrlAt d).mode = (s.ctrlAt d).mode := by
  cases m with
  | hostWrite off bytes v =>
    rw [agentMove]
    rcases hostWrite_shape s off bytes v with ⟨c, he⟩ | ⟨_, _, _, _, he⟩ | he <;> rw [he]
    · obtain ⟨p, hp⟩ := submit_shape c v s
      rw [hp, ctrlAt_congr (setPort_ctrls s c p)]
    · rfl
  | ctrl d' e =>
    rw [agentMove]
    by_cases hd : d = d'
    · subst hd
      exact controllerStep_mode (fun r he => hm d r (by rw [he])) s d
    · obtain ⟨k, mem, he⟩ := controllerStep_shape s d' e
      rw [he]
      exact congrArg Ctrl.mode (ctrlAt_setCtrlAt_other s k hd)
  | seq | source | clock | reset => rfl

/-- No other agent ends a `Disable` but by dropping its frame. -/
theorem agentMove_disabling {m : Turn} {s : State} (hm : m ≠ .reset) (h : s.disabling = true) :
    (agentMove m s).disabling = true := by
  cases hf : s.fgPort.frame with
  | none => simp [State.disabling, hf] at h
  | some f =>
    have hkept : (agentMove m s).fgPort.frame = some f := agentMove_frame (c := .fg) hm hf
    rw [State.disabling, hkept]
    rwa [State.disabling, hf] at h

theorem agentMove_enabledMeansOnBus {m : Turn} {s : State} (hm : ∀ d r, m ≠ .ctrl d (.outsideMode r))
    (hs : s.EnabledMeansOnBus) : (agentMove m s).EnabledMeansOnBus := by
  by_cases hreset : m = .reset
  · subst hreset
    exact .of_disabled rfl
  · obtain ⟨_, _, _, _, hregs⟩ := agentMove_regs s hreset
    refine hs.kept (fun hd => Bool.eq_false_iff.mpr fun hdis => ?_) (by rw [hregs]) ?_
    · simp [agentMove_disabling hreset hdis] at hd
    · rw [State.ctrl, hregs]
      exact agentMove_ctrlAt_mode hm s _

/-- Settles O47: the step is the current frame's, a stutter, or another agent's move. -/
theorem enabledMeansOnTheBus : Obligations.EnabledMeansOnTheBus := by
  intro s t hinv hs hm h
  have hnext : ({ s with sched := s.sched.tail } : State).EnabledMeansOnBus := hs
  rcases step_next_cases h with ⟨-, c, f, hc, hexec⟩ | ⟨-, -, rfl⟩ | ⟨-, rfl⟩
  · exact exec_enabledMeansOnBus (s := { s with sched := s.sched.tail }) { hinv with } hnext hc hexec
  · exact hs
  · exact agentMove_enabledMeansOnBus hm hnext

end Sys2Proof.Machine
end

section
/-! PROOF. INIT as a whole (`40_lifecycle.md` R192, `70_reset_and_hazards.md` R405). After its first step INIT is a command
of the machine bound to its device; what it has put into the registers, the bound controller and the filter zone is
followed from label to label. -/

namespace Sys2Proof.Machine

/-- `s` bound to the device `dev` (R192, R193). -/
def State.bound (s : State) (dev : BitVec 8) : State := s.setRegs (initRegs dev s.regs)

theorem State.Fresh.bound {s : State} {i : Instr} (h : s.Fresh i) (dev : BitVec 8) : (s.bound dev).Fresh i :=
  ⟨h.validCfg, h.quiet, h.noIs, h.started⟩

/-- The frame of an INIT at a label. -/
def initFrame (dev : BitVec 8) (l : Label) : Frame := { Frame.start (.init dev) with seq := l }

/-- `b` in the middle of an INIT, the first `n` filter words zeroed. -/
def initState (b : State) (dev : BitVec 8) (n : Nat) (r : HostRegs) (k : Ctrl) (l : Label) : State :=
  (b.setMem (b.cfg.zeroFilters b.mem n)).midway r k (initFrame dev l)

/-- A controller with its timing and its filters configured (R192 `S4` to `S6`). -/
def Ctrl.filtersConfigured (cfg : Cfg) (r : HostRegs) (k : Ctrl) : Ctrl :=
  { k with
    btr := btrOf r
    gfc := { rejNomatch := true, rejRemote := true }
    fltc := { base := BitVec.ofNat 16 cfg.offFlt, count := cfg.maxf } }

/-- A controller with its rings configured (R192 `S8` to `S10`). -/
def Ctrl.ringsConfigured (cfg : Cfg) (k : Ctrl) : Ctrl :=
  ((k.setRxc { base := BitVec.ofNat 16 cfg.offRx, count := cfg.rxd, overwrite := cfg.rxOverwrite }).setTxc
    { base := BitVec.ofNat 16 cfg.offTx, count := cfg.txd }).setTxec
      { base := BitVec.ofNat 16 cfg.offTxe, count := cfg.txed }

/-- A controller with its interrupts configured, on the bus (R192 `S11` to `S13`). -/
def Ctrl.onBus (cfg : Cfg) (k : Ctrl) : Ctrl :=
  { k with ie := cfg.ieInit, ils := cfg.ilsInit, mode := { init := false, cce := false, fd := false } }

/-- The bound controller after an INIT. -/
def initCtrl (b : State) : Ctrl :=
  (((offBusCtrl b true).filtersConfigured b.cfg (retimedRegs b false)).ringsConfigured b.cfg).onBus b.cfg

/-- `b` after an INIT. -/
def initDone (b : State) (dev : BitVec 8) : State :=
  (initState b dev b.cfg.maxf (retimedRegs b true) (initCtrl b) .initS13).ended .fg (initFrame dev .initS13) .ok

/-- The first step of an INIT that passes its check. -/
theorem init_bind {s : State} {dev : BitVec 8} (h : s.Fresh (.init dev)) (hdev : dev.toNat < s.cfg.numDev) (m : Nat) :
    runSteps (m + 1) s =
      runSteps m (initState (s.bound dev) dev 0 (s.bound dev).regs (s.bound dev).ctrl .initS1) := by
  have hat : s.At .fg (Frame.start (.init dev)) .initS0 := ⟨current_fg h.noIs h.started, rfl⟩
  obtain ⟨-, hstep⟩ := initChecksItsDevice s .fg _ dev hat
  have hself := midway_self (h.bound dev).started
  refine runSteps_succ ?_ m
  rw [step_quiet h.validCfg h.quiet, sequencerStep_current hat.1]
  refine (hstep hdev).trans (congrArg _ ?_)
  calc (s.bound dev).moved .fg (Frame.start (.init dev)) .initS1
    _ = ((s.bound dev).midway (s.bound dev).regs (s.bound dev).ctrl (Frame.start (.init dev))).moved .fg
          (Frame.start (.init dev)) .initS1 := by rw [hself]
    _ = _ := rfl

section

variable {b : State} {dev : BitVec 8} {n : Nat} {r : HostRegs} {k k' : Ctrl} {l l' : Label}
  (h : b.Fresh (.init dev)) (hr : r.cstate.dev = b.regs.cstate.dev)

include h in
theorem initState_at : (initState b dev n r k l).At .fg (initFrame dev l) l := midway_at h.noIs

include h in
theorem runSteps_initState {t : State} (hexec : exec (.init dev) (initState b dev n r k l) = .next t) (m : Nat) :
    runSteps (m + 1) (initState b dev n r k l) = runSteps m t := runSteps_midway (h.setMem _) hexec m

include hr

theorem initState_ctrl : (initState b dev n r k l).ctrl = k := midway_ctrl (s := b.setMem _) hr

theorem initState_setCtrl : (initState b dev n r k l).setCtrl k' = initState b dev n r k' l :=
  midway_setCtrl (s := b.setMem _) hr

include h

/-- A step that leaves the bound controller at `k'`. -/
theorem init_write (m : Nat)
    (hstep : (initState b dev n r k l).At .fg (initFrame dev l) l → exec (.init dev) (initState b dev n r k l) =
      .next (((initState b dev n r k l).setCtrl k').moved .fg (initFrame dev l) l')) :
    runSteps (m + 1) (initState b dev n r k l) = runSteps m (initState b dev n r k' l') := by
  rw [runSteps_initState h (hstep (initState_at h)), initState_setCtrl hr]
  rfl

/-- The steps before the timing is computed: off the bus, in configuration mode. -/
theorem init_offBus (m : Nat) :
    runSteps (m + 2) (initState b dev n r b.ctrl .initS1) =
      runSteps m (initState b dev n r (offBusCtrl b true) .initS3) := by
  have steps (k l) :=
    initProgramsTheController (initState b dev n r k l) .fg (initFrame dev l) dev k (initState_ctrl hr).symm
  obtain ⟨hfirst, -⟩ := steps b.ctrl .initS1
  obtain ⟨-, hsecond, -⟩ := steps (offBusCtrl b false) .initS2
  exact (init_write h hr (k' := offBusCtrl b false) (m + 1) hfirst).trans (init_write h hr m hsecond)

/-- The steps of the timing and filter registers, in configuration mode. -/
theorem init_filters (hinit : k.mode.init = true) (hcce : k.mode.cce = true) (m : Nat) :
    runSteps (m + 3) (initState b dev n r k .initS4) =
      runSteps m (initState b dev n r (k.filtersConfigured b.cfg r) (.initS7 0)) := by
  have steps (k l) :=
    initProgramsTheController (initState b dev n r k l) .fg (initFrame dev l) dev k (initState_ctrl hr).symm
  obtain ⟨-, -, -, -, -, -, -, hcfg⟩ := steps k .initS4
  obtain ⟨hbtr, -⟩ := hcfg hinit hcce
  obtain ⟨-, -, -, -, -, -, -, hcfg⟩ := steps { k with btr := btrOf r } .initS5
  obtain ⟨-, hgfc, -⟩ := hcfg hinit hcce
  obtain ⟨-, -, -, -, -, -, -, hcfg⟩ :=
    steps { k with btr := btrOf r, gfc := { rejNomatch := true, rejRemote := true } } .initS6
  obtain ⟨-, -, hfltc, -⟩ := hcfg hinit hcce
  calc runSteps (m + 3) (initState b dev n r k .initS4)
    _ = _ := init_write h hr (m + 2) hbtr
    _ = _ := init_write h hr (m + 1) hgfc
    _ = _ := init_write h hr m hfltc

/-- The steps of the ring registers, in configuration mode. -/
theorem init_rings (hinit : k.mode.init = true) (hcce : k.mode.cce = true) (m : Nat) :
    runSteps (m + 3) (initState b dev n r k .initS8) =
      runSteps m (initState b dev n r (k.ringsConfigured b.cfg) .initS11) := by
  have steps (k l) :=
    initProgramsTheController (initState b dev n r k l) .fg (initFrame dev l) dev k (initState_ctrl hr).symm
  obtain ⟨-, -, -, -, -, -, -, hcfg⟩ := steps k .initS8
  obtain ⟨-, -, -, hrxc, -⟩ := hcfg hinit hcce
  obtain ⟨-, -, -, -, -, -, -, hcfg⟩ := steps (k.setRxc _) .initS9
  obtain ⟨-, -, -, -, htxc, -⟩ := hcfg hinit hcce
  obtain ⟨-, -, -, -, -, -, -, hcfg⟩ := steps ((k.setRxc _).setTxc _) .initS10
  obtain ⟨-, -, -, -, -, htxec⟩ := hcfg hinit hcce
  calc runSteps (m + 3) (initState b dev n r k .initS8)
    _ = _ := init_write h hr (m + 2) hrxc
    _ = _ := init_write h hr (m + 1) htxc
    _ = _ := init_write h hr m htxec

omit hr

/-- The step that computes the timing and clears `enabled`. -/
theorem init_timing (m : Nat) :
    runSteps (m + 1) (initState b dev n b.regs k .initS3) =
      runSteps m (initState b dev n (retimedRegs b false) k .initS4) := by
  obtain ⟨-, -, hstep, -⟩ :=
    initProgramsTheController (initState b dev n b.regs k .initS3) .fg (initFrame dev .initS3) dev _ rfl
  exact runSteps_initState h (hstep (initState_at h)) m

/-- A turn of the loop zeroes the next filter word. -/
theorem init_loop_turn (m : Nat) :
    runSteps (m + 1) (initState b dev n r k (.initS7 n)) =
      runSteps m (initState b dev (n + 1) r k (if n + 1 < b.cfg.maxf then .initS7 (n + 1) else .initS8)) := by
  obtain ⟨-, -, -, hstep, -⟩ :=
    initProgramsTheController (initState b dev n r k (.initS7 n)) .fg (initFrame dev (.initS7 n)) dev _ rfl
  exact runSteps_initState h (hstep n (initState_at h)) m

theorem init_loop_turns (hn : n < b.cfg.maxf) (m : Nat) :
    runSteps (m + (n + 1)) (initState b dev 0 r k (.initS7 0)) =
      runSteps m (initState b dev (n + 1) r k (if n + 1 < b.cfg.maxf then .initS7 (n + 1) else .initS8)) := by
  induction n generalizing m with
  | zero => exact init_loop_turn h m
  | succ n ih => rw [show m + (n + 1 + 1) = m + 1 + (n + 1) by omega, ih (by omega), if_pos hn, init_loop_turn h]

/-- The loop as a whole. -/
theorem init_loop (m : Nat) :
    runSteps (m + b.cfg.maxf) (initState b dev 0 r k (.initS7 0)) =
      runSteps m (initState b dev b.cfg.maxf r k .initS8) := by
  have hmaxf : 1 ≤ b.cfg.maxf := (maxf_bounds h.validCfg).1
  have hlast := init_loop_turns (r := r) (k := k) h (Nat.sub_lt hmaxf one_pos) m
  rwa [Nat.sub_add_cancel hmaxf, if_neg (lt_irrefl _)] at hlast

/-- The last steps: the interrupts, and back on the bus. -/
theorem init_last :
    runSteps 3 (initState b dev n (retimedRegs b false) k .initS11) =
      .next ((initState b dev n (retimedRegs b true) (k.onBus b.cfg) .initS13).ended .fg (initFrame dev .initS13) .ok) := by
  have hr := retimedRegs_dev b false
  have steps (k l) := initProgramsTheController (initState b dev n (retimedRegs b false) k l) .fg (initFrame dev l) dev k
    (initState_ctrl hr).symm
  obtain ⟨-, -, -, -, hie, -⟩ := steps k .initS11
  obtain ⟨-, -, -, -, -, hils, -⟩ := steps { k with ie := b.cfg.ieInit } .initS12
  obtain ⟨-, -, -, -, -, -, hon, -⟩ := steps { k with ie := b.cfg.ieInit, ils := b.cfg.ilsInit } .initS13
  calc runSteps 3 (initState b dev n (retimedRegs b false) k .initS11)
    _ = _ := init_write h hr 2 hie
    _ = _ := init_write h hr 1 hils
    _ = _ := runSteps_initState h (hon (initState_at h)) 0
    _ = _ := by
      rw [initState_setCtrl hr]
      rfl

/-- INIT from its second step to its last. -/
theorem init_run_bound :
    runSteps (12 + b.cfg.maxf) (initState b dev 0 b.regs b.ctrl .initS1) = .next (initDone b dev) := by
  have hr := retimedRegs_dev b false
  calc runSteps (12 + b.cfg.maxf) (initState b dev 0 b.regs b.ctrl .initS1)
    _ = runSteps (6 + b.cfg.maxf + 6) _ := by congr 1; omega
    _ = _ := init_offBus h rfl (6 + b.cfg.maxf + 4)
    _ = _ := init_timing h (6 + b.cfg.maxf + 3)
    _ = _ := init_filters h hr rfl rfl (6 + b.cfg.maxf)
    _ = _ := init_loop h 6
    _ = _ := init_rings h hr rfl rfl 3
    _ = _ := init_last h

end

/-- INIT from its first step to its last. -/
theorem init_run {s : State} {dev : BitVec 8} (h : s.Fresh (.init dev)) (hdev : dev.toNat < s.cfg.numDev) :
    runSteps (13 + s.cfg.maxf) s = .next (initDone (s.bound dev) dev) := by
  rw [show 13 + s.cfg.maxf = 12 + s.cfg.maxf + 1 by omega, init_bind h hdev]
  exact init_run_bound (h.bound dev)

theorem initDone_ctrlAt (b : State) (dev : BitVec 8) : (initDone b dev).ctrlAt b.regs.cstate.dev = initCtrl b :=
  (ended_ctrlAt ..).trans (ctrlAt_setCtrlAt_same ((b.setMem _).setRegs _) _ _)

/-- Settles O37: `init_run`, and what the state it ends in holds. -/
theorem initEndsConfigured : Obligations.InitEndsConfigured := by
  intro s dev h hdev hm
  have hctrl : (initDone (s.bound dev) dev).ctrlAt dev = initCtrl (s.bound dev) := initDone_ctrlAt (s.bound dev) dev
  have hzone : (initDone (s.bound dev) dev).zoneCleared := fun j hj => Cfg.loadWord_zeroFilters hm hj
  exact ⟨_, _, _, init_run h hdev, rfl, hctrl.symm, rfl, rfl, rfl, rfl, rfl, ⟨rfl, rfl, rfl, rfl⟩, rfl, rfl, rfl, rfl, rfl,
    rfl, rfl, rfl, rfl, rfl, rfl, rfl, rfl, rfl, rfl, hzone, fun x hx => Cfg.load_zeroFilters_outside hm hx,
    fun d hd => (ended_ctrlAt ..).trans (midway_ctrlAt_other hd), rfl, rfl, rfl⟩

end Sys2Proof.Machine
end
